-- ==== Sys2Proof/Word.lean ====
section
/-! DEFINITION. The widths of the machine's values (00_scope.md R6). Bit 0 is the least significant bit of every value (R8). -/

namespace Sys2Proof

/-- A general register or a data-memory cell: `XLEN` = 8 bits (R6, R21). -/
abbrev Byte := BitVec 8

/-- An instruction word, IR, or a program-memory cell: `ILEN` = 16 bits (R6). -/
abbrev Word := BitVec 16

/-- PC and a program-memory word address: `PCW` = 11 bits (R6, R26). -/
abbrev ProgAddr := BitVec 11

/-- A data-memory byte address: `DAW` = 12 bits (R6, R50). -/
abbrev DataAddr := BitVec 12

/-- SP: `SPW` = 10 bits (R6, R38). -/
abbrev StackPtr := BitVec 10

/-- PR: `PRW` = 4 bits (R6, R55). -/
abbrev Page := BitVec 4

/-- The 5-bit `Offset` field of the relative branches and of `stz`, `ldz` (R82). -/
abbrev Offset := BitVec 5

end Sys2Proof
end

