-- ==== Sys2Proof/Syntax.lean ====
section
/-! DEFINITION. The instructions: one constructor per row of opcode_table.json (30_encoding.md R88). Register numbers and condition codes are constructors, the other operands bit vectors of exactly the field's width (R82), so an operand out of range cannot be written down. -/

namespace Sys2Proof

/-- The eight general registers (10_state.md R20). -/
inductive Reg where
  | r0 | r1 | r2 | r3 | r4 | r5 | r6 | r7
  deriving DecidableEq, Repr

/-- The condition codes of "Maske für Cond" (43_control_transfer.md R163), 000 to 111 in order. -/
inductive Cond where
  /-- 000: C = 1. -/
  | c
  /-- 001: V = 1. -/
  | v
  /-- 010: N = 1. -/
  | n
  /-- 011: status bit S = 1. -/
  | s
  /-- 100: Z = 1. -/
  | z
  /-- 101: `==`. -/
  | eq
  /-- 110: `<`, unsigned or signed as the S field says. -/
  | lt
  /-- 111: `>`, unsigned or signed as the S field says. -/
  | gt
  deriving DecidableEq, Repr

/-- The instructions, in the order of the table. `rd` and `rs` are the Rd and Rs fields, `off` the Offset field, `sf` the S
field of `brs` and `brc` (true is 1, the signed comparison). -/
inductive Instr where
  | nop
  | add (rd rs : Reg)
  | addc (rd rs : Reg)
  | sub (rd rs : Reg)
  | subc (rd rs : Reg)
  | inc (rd : Reg)
  | dec (rd : Reg)
  | and (rd rs : Reg)
  | or (rd rs : Reg)
  | xor (rd rs : Reg)
  | not (rd : Reg)
  | sll (rd : Reg)
  | slr (rd : Reg)
  | mov (rd rs : Reg)
  | psh (rs : Reg)
  | pll (rd : Reg)
  | stz (off : Offset) (rs : Reg)
  | ldz (rd : Reg) (off : Offset)
  | st (addr : BitVec 8) (rs : Reg)
  | ld (rd : Reg) (addr : BitVec 8)
  | ldi (rd : Reg) (data : Byte)
  | jpa (target : ProgAddr)
  | bra (off : Offset)
  | brs (sf : Bool) (off : Offset) (cc : Cond)
  | brc (sf : Bool) (off : Offset) (cc : Cond)
  | call (target : ProgAddr)
  | ret
  | lcr (rd : Reg)
  | stcr (rs : Reg)
  | res2
  | res3
  | hlt
  deriving DecidableEq, Repr

end Sys2Proof
end

