-- ==== Sys2Proof/WellFormed.lean ====
section
/-! DEFINITION. Well-formed instruction words: the unused (X) bits are 0, as an assembler writes them (30_encoding.md R84). The operands of an `Instr` are in range by their types, and every word is a legal instruction (R89), so this is the one check the spec leaves. The decoder does not make it: it ignores X bits (R84, D1, log 15). -/

namespace Sys2Proof

/-- The opcode, bits 15:11 of every instruction word (R81). -/
def opcodeField (w : Word) : BitVec 5 := w.extractLsb' 11 5

/-- The layouts of R83, with `ldi`'s layout filed under `ld`'s as R83 does. -/
inductive Format where
  | rr | rd | rs | none | stz | ldz | st | ld | j | bra | brc
  deriving DecidableEq, Repr

/-- The format column of R88, by opcode. -/
def formatOf (op : BitVec 5) : Format :=
  match op.toNat with
  | 0b00001 | 0b00010 | 0b00011 | 0b00100 | 0b00111 | 0b01000 | 0b01001 | 0b01101 => .rr
  | 0b00101 | 0b00110 | 0b01010 | 0b01011 | 0b01100 | 0b01111 | 0b11011 => .rd
  | 0b01110 | 0b11100 => .rs
  | 0b10000 => .stz
  | 0b10001 => .ldz
  | 0b10010 => .st
  | 0b10011 | 0b10100 => .ld
  | 0b10101 | 0b11001 => .j
  | 0b10110 => .bra
  | 0b10111 | 0b11000 => .brc
  | _ => .none

/-- The X bits of each layout (R83). -/
def Format.unusedBits : Format → Word
  | .rr   => 0b0000000011111000#16
  | .rd   => 0b0000000011111111#16
  | .rs   => 0b0000011111111000#16
  | .none => 0b0000011111111111#16
  | .stz  => 0b0000011100000000#16
  | .ldz  => 0b0000000000000111#16
  | .st   => 0
  | .ld   => 0
  | .j    => 0
  | .bra  => 0b0000011100000111#16
  | .brc  => 0b0000001100000000#16

/-- The X bits of the instruction that word `w` is. -/
def unusedBits (w : Word) : Word := (formatOf (opcodeField w)).unusedBits

/-- A word as the assembler writes it: 0 in every X bit (R84). -/
def wellFormed (w : Word) : Bool := w &&& unusedBits w == 0

end Sys2Proof
end

