-- ==== Sys2Proof/Decode.lean ====
section
/-! DEFINITION. Decoding, total on all 65536 words (30_encoding.md R90): no encoding is illegal (R89), so no word is rejected. After it the encoder, written from the layouts of R83 and the opcodes of R88. -/

namespace Sys2Proof

/-! ### Register numbers and condition codes -/

/-- "Kodierung" of 10_state.md R20. -/
def Reg.number : Reg → BitVec 3
  | .r0 => 0b000 | .r1 => 0b001 | .r2 => 0b010 | .r3 => 0b011
  | .r4 => 0b100 | .r5 => 0b101 | .r6 => 0b110 | .r7 => 0b111

/-- The register a 3-bit number names (R20). -/
def Reg.ofNumber (n : BitVec 3) : Reg :=
  match n.toNat with
  | 0b000 => .r0 | 0b001 => .r1 | 0b010 => .r2 | 0b011 => .r3
  | 0b100 => .r4 | 0b101 => .r5 | 0b110 => .r6 | _ => .r7

/-- The Cond field of a condition (R163). -/
def Cond.code : Cond → BitVec 3
  | .c => 0b000 | .v => 0b001 | .n => 0b010 | .s => 0b011
  | .z => 0b100 | .eq => 0b101 | .lt => 0b110 | .gt => 0b111

/-- The condition a Cond field names (R163). -/
def Cond.ofCode (n : BitVec 3) : Cond :=
  match n.toNat with
  | 0b000 => .c | 0b001 => .v | 0b010 => .n | 0b011 => .s
  | 0b100 => .z | 0b101 => .eq | 0b110 => .lt | _ => .gt

/-! ### The fields of a word (R82, R87) -/

/-- Rd, bits 10:8. -/
def fieldRd (w : Word) : Reg := Reg.ofNumber (w.extractLsb' 8 3)

/-- Rs, bits 2:0. -/
def fieldRs (w : Word) : Reg := Reg.ofNumber (w.extractLsb' 0 3)

/-- Offset, bits 7:3. -/
def fieldOffset (w : Word) : Offset := w.extractLsb' 3 5

/-- Address of `st`, bits 10:3. -/
def fieldStAddr (w : Word) : BitVec 8 := w.extractLsb' 3 8

/-- Address of `ld` and Data of `ldi`, bits 7:0. -/
def fieldByte (w : Word) : BitVec 8 := w.extractLsb' 0 8

/-- Address of `jpa` and `call`, bits 10:0. -/
def fieldTarget (w : Word) : ProgAddr := w.extractLsb' 0 11

/-- The S field of `brs` and `brc`, bit 10. -/
def fieldS (w : Word) : Bool := w.getLsbD 10

/-- Cond, bits 2:0. -/
def fieldCond (w : Word) : Cond := Cond.ofCode (w.extractLsb' 0 3)

/-- Decode an instruction word (R90): the opcode selects the row of R88, the row's layout the fields; every other bit is
ignored (R84, D1, log 15). -/
def decode (w : Word) : Instr :=
  match (opcodeField w).toNat with
  | 0b00000 => .nop
  | 0b00001 => .add (fieldRd w) (fieldRs w)
  | 0b00010 => .addc (fieldRd w) (fieldRs w)
  | 0b00011 => .sub (fieldRd w) (fieldRs w)
  | 0b00100 => .subc (fieldRd w) (fieldRs w)
  | 0b00101 => .inc (fieldRd w)
  | 0b00110 => .dec (fieldRd w)
  | 0b00111 => .and (fieldRd w) (fieldRs w)
  | 0b01000 => .or (fieldRd w) (fieldRs w)
  | 0b01001 => .xor (fieldRd w) (fieldRs w)
  | 0b01010 => .not (fieldRd w)
  | 0b01011 => .sll (fieldRd w)
  | 0b01100 => .slr (fieldRd w)
  | 0b01101 => .mov (fieldRd w) (fieldRs w)
  | 0b01110 => .psh (fieldRs w)
  | 0b01111 => .pll (fieldRd w)
  | 0b10000 => .stz (fieldOffset w) (fieldRs w)
  | 0b10001 => .ldz (fieldRd w) (fieldOffset w)
  | 0b10010 => .st (fieldStAddr w) (fieldRs w)
  | 0b10011 => .ld (fieldRd w) (fieldByte w)
  | 0b10100 => .ldi (fieldRd w) (fieldByte w)
  | 0b10101 => .jpa (fieldTarget w)
  | 0b10110 => .bra (fieldOffset w)
  | 0b10111 => .brs (fieldS w) (fieldOffset w) (fieldCond w)
  | 0b11000 => .brc (fieldS w) (fieldOffset w) (fieldCond w)
  | 0b11001 => .call (fieldTarget w)
  | 0b11010 => .ret
  | 0b11011 => .lcr (fieldRd w)
  | 0b11100 => .stcr (fieldRs w)
  | 0b11101 => .res2
  | 0b11110 => .res3
  | _       => .hlt      -- 0b11111, the one five-bit value left

/-! ### The encoder: layouts of R83, X bits 0 (R84) -/

/-- Layout `RR`. -/
def layoutRR (op : BitVec 5) (rd rs : Reg) : Word := op ++ rd.number ++ 0#5 ++ rs.number

/-- Layout `RD`. -/
def layoutRD (op : BitVec 5) (rd : Reg) : Word := op ++ rd.number ++ 0#8

/-- Layout `RS`. -/
def layoutRS (op : BitVec 5) (rs : Reg) : Word := op ++ 0#8 ++ rs.number

/-- Layout `NONE`. -/
def layoutNone (op : BitVec 5) : Word := op ++ 0#11

/-- Layout `LD`, for `ld` and `ldi`. -/
def layoutLD (op : BitVec 5) (rd : Reg) (b : BitVec 8) : Word := op ++ rd.number ++ b

/-- Layout `J`. -/
def layoutJ (op : BitVec 5) (a : ProgAddr) : Word := op ++ a

/-- Layout `BRC`. -/
def layoutBRC (op : BitVec 5) (sf : Bool) (off : Offset) (cc : Cond) : Word :=
  op ++ BitVec.ofBool sf ++ 0#2 ++ off ++ cc.code

/-- The word of an instruction: the opcode column of R88, the layout of R83, 0 in every X bit (R84). -/
def encode : Instr → Word
  | .nop           => layoutNone 0b00000
  | .add rd rs     => layoutRR 0b00001 rd rs
  | .addc rd rs    => layoutRR 0b00010 rd rs
  | .sub rd rs     => layoutRR 0b00011 rd rs
  | .subc rd rs    => layoutRR 0b00100 rd rs
  | .inc rd        => layoutRD 0b00101 rd
  | .dec rd        => layoutRD 0b00110 rd
  | .and rd rs     => layoutRR 0b00111 rd rs
  | .or rd rs      => layoutRR 0b01000 rd rs
  | .xor rd rs     => layoutRR 0b01001 rd rs
  | .not rd        => layoutRD 0b01010 rd
  | .sll rd        => layoutRD 0b01011 rd
  | .slr rd        => layoutRD 0b01100 rd
  | .mov rd rs     => layoutRR 0b01101 rd rs
  | .psh rs        => layoutRS 0b01110 rs
  | .pll rd        => layoutRD 0b01111 rd
  | .stz off rs    => 0b10000#5 ++ 0#3 ++ off ++ rs.number
  | .ldz rd off    => 0b10001#5 ++ rd.number ++ off ++ 0#3
  | .st addr rs    => 0b10010#5 ++ addr ++ rs.number
  | .ld rd addr    => layoutLD 0b10011 rd addr
  | .ldi rd data   => layoutLD 0b10100 rd data
  | .jpa target    => layoutJ 0b10101 target
  | .bra off       => 0b10110#5 ++ 0#3 ++ off ++ 0#3
  | .brs sf off cc => layoutBRC 0b10111 sf off cc
  | .brc sf off cc => layoutBRC 0b11000 sf off cc
  | .call target   => layoutJ 0b11001 target
  | .ret           => layoutNone 0b11010
  | .lcr rd        => layoutRD 0b11011 rd
  | .stcr rs       => layoutRS 0b11100 rs
  | .res2          => layoutNone 0b11101
  | .res3          => layoutNone 0b11110
  | .hlt           => layoutNone 0b11111

/-- The instruction of a word given as a number of `nbits` bits, bit 0 the least significant bit of the word. Every
instruction is one 16-bit word (R80): bits above `nbits` are 0, and a length above 16 is none of this machine's (log 13). -/
def decodeTableWord (nbits w : Nat) : Option Instr :=
  if nbits ≤ 16 then some (decode (BitVec.ofNat 16 (w % 2 ^ nbits))) else none

end Sys2Proof
end

