-- ==== Sys2Proof/Config.lean ====
section
/-! DEFINITION. What an implementation fixes (the open parameters of 00_scope.md R7) and the values the spec leaves free (93_implementation_defined.md). -/

namespace Sys2Proof.Config

/-- The parameters of R7 that an instruction's rule depends on, with the spec's defaults. `State.cfg` holds them and no
step changes them, so every claim about all states is a claim for all their values (log 9). -/
structure Params where
  /-- `STACK_BASE` / 1024. `STACK_BASE`, the data address of stack slot 0, is a 12-bit multiple of 1024 (R7, R58, D6), so
  these two bits are all of it. -/
  stackQuarter : BitVec 2 := 0
  /-- `PC_REL_BASE`, 0 or 1: what is added to the address of a relative branch before the offset (R161, D2). -/
  pcRelBase : BitVec 1 := 1
  /-- `ZOFF_SIGNED`: whether the offset of `stz` and `ldz` is sign-extended (R57, D5). -/
  zoffSigned : Bool := false
  /-- `RET_LOW_FIRST`: whether the low byte of a return address has the lower stack slot (R59, D7). -/
  retLowFirst : Bool := true
  /-- `DMEM_DEVICE_MAP`: the data addresses that are not plain RAM (R53, D19). -/
  deviceMap : List DataAddr := []
  deriving DecidableEq, Repr

/-- The values reset leaves (R41). The first four are the named parameters `RESET_PC`, `RESET_SP`, `RESET_SCR`, `RESET_PR`
of R7 with the defaults of D15 (log 8). The spec calls the last two unspecified: their defaults are the model's
(DESIGN CHOICE, unsafe, log 7), and a claim for all of them quantifies over this structure. -/
structure ResetValues where
  /-- `RESET_PC`. -/
  pc : ProgAddr := 0x000
  /-- `RESET_SP`. -/
  sp : StackPtr := 0x000
  /-- `RESET_SCR`: bits 5:0 of SCR, P Z S N V C from bit 5 down. -/
  scr : BitVec 6 := 0
  /-- `RESET_PR`. -/
  pr : Page := 0x0
  /-- `r0` to `r7` in order; unspecified in the spec. -/
  regs : Vector Byte 8 := Vector.replicate 8 0x00
  /-- IR; unspecified in the spec. -/
  ir : Word := 0x0000
  deriving DecidableEq, Repr

/-- C after `and`, `or`, `xor`, `not`: `draw(1)` at each execution (R118, U4). FREE VALUE: nothing constrains it (log 1). -/
opaque freeCarry : Nat → Bool

/-- V after `sll`, `slr`: `draw(1)` at each execution (R131, U5). FREE VALUE (log 2). -/
opaque freeOverflow : Nat → Bool

/-- Bits 7:6 of an `lcr` result: `draw(2)` at each execution (R184, U6). FREE VALUE (log 3). -/
opaque freeHighBits : Nat → BitVec 2

/-- The content of a data byte that neither the environment nor the program has written: one value per address, drawn
once (R53, U2). FREE VALUE (log 5). -/
opaque unwrittenByte : DataAddr → Byte

/-- How one run of the page-write window of a `stcr` comes out where 70_reset_and_hazards.md R227 leaves it open (U7, log 4). -/
structure WindowChoice where
  /-- The page write comes after the window instruction, which so sees the old PR and P = 1; otherwise it comes before. -/
  late : Bool
  /-- A late write copies `r6` as the window instruction left it; otherwise as it stood before. -/
  newR6 : Bool
  /-- A late write still happens when the window instruction is a `stcr` that cleared P. -/
  keepsWrite : Bool
  /-- The P that a `stcr` in the window set survives the clearing by a late write. -/
  keepsRequest : Bool
  deriving DecidableEq, Repr, Inhabited

/-- The choice in the window: any of them (R227, U7). FREE VALUE (log 4). -/
opaque freeWindow : Nat → WindowChoice

end Sys2Proof.Config
end

