-- ==== Sys2Proof/Machine/State.lean ====
section
/-! DEFINITION. The state of the machine (10_state.md, 20_memory.md R50), its state after reset (R41), and the reasons a step can stop. -/

namespace Sys2Proof.Machine

/-- The eight general registers (R20); none is hardwired (R22). -/
structure Regs where
  r0 : Byte
  r1 : Byte
  r2 : Byte
  r3 : Byte
  r4 : Byte
  r5 : Byte
  r6 : Byte
  r7 : Byte
  deriving DecidableEq, Repr

/-- The Status and Control Register (R30): bits 0 to 5 by name. Bits 7:6 have no storage (R35, D14, log 3). -/
structure Scr where
  /-- Bit 0, carry or borrow of the last 8-bit operation. -/
  c : Bool
  /-- Bit 1, signed overflow of the last operation. -/
  v : Bool
  /-- Bit 2, sign bit of the last result. -/
  n : Bool
  /-- Bit 3, sign bit of the correct result. -/
  s : Bool
  /-- Bit 4, the last result is 0. -/
  z : Bool
  /-- Bit 5, write page select: a page write is pending (R34, R36). -/
  p : Bool
  deriving DecidableEq, Repr

/-- SCR from its bits 5:0 (P Z S N V C from bit 5 down). -/
def Scr.ofBits (b : BitVec 6) : Scr where
  c := b.getLsbD 0
  v := b.getLsbD 1
  n := b.getLsbD 2
  s := b.getLsbD 3
  z := b.getLsbD 4
  p := b.getLsbD 5

/-- The state. `draws` is the model's own (log 12), `cfg` the open parameters (log 9); the rest is what the spec names. -/
structure State where
  /-- `r0` to `r7`. -/
  regs : Regs
  /-- PC. While an instruction fetched from address A executes it is A + 1 (R27). -/
  pc : ProgAddr
  /-- IR, the word most recently fetched (R29). -/
  ir : Word
  /-- SCR. -/
  scr : Scr
  /-- SP, the next free stack slot (R38). -/
  sp : StackPtr
  /-- PR, the upper 4 bits of paged data addresses (R55). -/
  pr : Page
  /-- P was set by a `stcr`, so the next instruction is the one in the page-write window of R227. After reset it is false
  even where `RESET_SCR` sets P: no `stcr` has run (DEDUCED, log 17). -/
  window : Bool
  /-- The halt state (R39). -/
  halted : Bool
  /-- Program memory: the placed words by word address, addresses strictly rising; an unlisted word has no value (R51, U3,
  log 6, log 14). -/
  pmem : List (Nat × Word)
  /-- Data memory: the written bytes by address, addresses strictly rising; an unlisted byte has never been written (R53,
  U2, log 5). -/
  dmem : List Host.Cell
  /-- How many free values have been drawn; plain data that makes each draw a fresh one (log 12). -/
  draws : Nat
  /-- The parameters of R7; no step changes them. -/
  cfg : Config.Params
  deriving DecidableEq, Repr

/-- Why a step stops without a next state. -/
inductive Fault where
  /-- Raised by `step` on a halted machine: the clock is off and no step is taken (R39, R186, U17). It is the defined end of
  a run, not an error. Safe (log 11). -/
  | halted
  /-- Raised by `step` when PC names a program word that the environment has not placed: its content is unspecified and a
  model does not invent an instruction (R51, U3). Safe (log 6). -/
  | programWordNotPlaced (a : ProgAddr)
  deriving DecidableEq, Repr

/-- Why an instruction has no meaning in the model. -/
inductive Refusal where
  /-- Given by an arm of `exec` whose instruction has no meaning yet; no arm does. Safe. -/
  | notModelled (mnemonic : String)
  /-- Given by a load, store, push, pull, call or return that reaches a data address in `DMEM_DEVICE_MAP`: a device the spec
  does not describe (R53, U15). The default map is empty. Safe (log 10). -/
  | dataDevice (a : DataAddr)
  deriving DecidableEq, Repr

/-- The state after reset (R41, R220), for any reset values `rv` and any parameters `cfg`. Both memories list nothing: the
program image comes from the environment (R225, log 13). -/
def State.resetWith (rv : Config.ResetValues) (cfg : Config.Params) : State where
  regs :=
    { r0 := rv.regs[0], r1 := rv.regs[1], r2 := rv.regs[2], r3 := rv.regs[3]
      r4 := rv.regs[4], r5 := rv.regs[5], r6 := rv.regs[6], r7 := rv.regs[7] }
  pc := rv.pc
  ir := rv.ir
  scr := Scr.ofBits rv.scr
  sp := rv.sp
  pr := rv.pr
  window := false
  halted := false
  pmem := []
  dmem := []
  draws := 0
  cfg := cfg

/-- The state after reset at the spec's default parameters (R41, D15, log 8) and the model's register values (log 7). -/
def State.reset : State := State.resetWith {} {}

end Sys2Proof.Machine
end

