-- ==== Sys2Proof/Machine/Ops.lean ====
section
/-! DEFINITION. The named operations over registers and memories, which every meaning goes through. The machine has no exception to take and none to return from (60_exceptions.md R200, R204, R205), so no such operation stands here. -/

namespace Sys2Proof.Machine

/-- The three outcomes of an instruction. -/
abbrev Result := Host.Outcome State Fault Refusal

/-- Go on with the next state of `o`, or stop as `o` stops. -/
def andThen (o : Result) (k : State → Result) : Result :=
  match o with
  | .next s => k s
  | .fault r => .fault r
  | .refused r => .refused r

/-! ### General registers (R10 `x[i]`) -/

/-- Read a general register. -/
def Regs.get (x : Regs) : Reg → Byte
  | .r0 => x.r0 | .r1 => x.r1 | .r2 => x.r2 | .r3 => x.r3
  | .r4 => x.r4 | .r5 => x.r5 | .r6 => x.r6 | .r7 => x.r7

/-- Write a general register. -/
def Regs.set (x : Regs) (r : Reg) (v : Byte) : Regs :=
  match r with
  | .r0 => { x with r0 := v } | .r1 => { x with r1 := v }
  | .r2 => { x with r2 := v } | .r3 => { x with r3 := v }
  | .r4 => { x with r4 := v } | .r5 => { x with r5 := v }
  | .r6 => { x with r6 := v } | .r7 => { x with r7 := v }

/-- `x[r]`. -/
def State.reg (s : State) (r : Reg) : Byte := s.regs.get r

/-- `x[r] <- v`. -/
def State.setReg (s : State) (r : Reg) (v : Byte) : State := { s with regs := s.regs.set r v }

/-! ### Updates of the other fields -/

/-- `pc <- a`. -/
def State.setPc (s : State) (a : ProgAddr) : State := { s with pc := a }

/-- `ir <- w`. -/
def State.setIr (s : State) (w : Word) : State := { s with ir := w }

/-- `scr <- x`. -/
def State.setScr (s : State) (x : Scr) : State := { s with scr := x }

/-- `P <- b`, as `stcr` and the page write do: the window of R227 is open exactly when this sets P (log 17). -/
def State.setP (s : State) (b : Bool) : State := { s with scr := { s.scr with p := b }, window := b }

/-- `sp <- p`. -/
def State.setSp (s : State) (p : StackPtr) : State := { s with sp := p }

/-- `pr <- p`. -/
def State.setPr (s : State) (p : Page) : State := { s with pr := p }

/-- `halted <- true` (R186). -/
def State.halt (s : State) : State := { s with halted := true }

/-- Count one draw of a free value (log 12). -/
def State.drawn (s : State) : State := { s with draws := s.draws + 1 }

/-! ### Cells by address: the canonical form both memories have -/

/-- The content listed for address `a`, if any. -/
def Memory.read? {α : Type} : List (Nat × α) → Nat → Option α
  | [], _ => none
  | (b, v) :: m, a => if a = b then some v else Memory.read? m a

/-- Put `v` at address `a`, keeping addresses strictly rising. An unlisted address has no value, so no written value removes
an entry. -/
def Memory.write {α : Type} : List (Nat × α) → Nat → α → List (Nat × α)
  | [], a, v => [(a, v)]
  | (b, w) :: m, a, v =>
    if a < b then (a, v) :: (b, w) :: m
    else if a = b then (a, v) :: m
    else (b, w) :: Memory.write m a v

/-- The canonical form: addresses strictly rising, each below `size`. -/
abbrev Memory.wf {α : Type} (size : Nat) (m : List (Nat × α)) : Prop :=
  m.Pairwise (fun x y => x.1 < y.1) ∧ ∀ x ∈ m, x.1 < size

/-! ### Program memory (R51): read by fetch, never written by an instruction -/

/-- The program word at `a`, where the environment has placed one. -/
def State.progWord? (s : State) (a : ProgAddr) : Option Word := Memory.read? s.pmem a.toNat

/-- The environment places a program word (R225, log 13); no instruction does. -/
def State.placeWord (s : State) (a : ProgAddr) (w : Word) : State :=
  { s with pmem := Memory.write s.pmem a.toNat w }

/-! ### Data memory (R10 `MemRead`, `MemWrite`; R53) -/

/-- The byte written last to data address `a`, if one has been. -/
def State.written? (s : State) (a : DataAddr) : Option Byte := Memory.read? s.dmem a.toNat

/-- The byte at data address `a`: the one written last, or the free value of a byte nothing has written (U2, log 5). -/
def State.dataByte (s : State) (a : DataAddr) : Byte := (s.written? a).getD (Config.unwrittenByte a)

/-- Write a data byte. -/
def State.setByte (s : State) (a : DataAddr) (v : Byte) : State :=
  { s with dmem := Memory.write s.dmem a.toNat v }

/-- `MemRead(a, 1)`, handed to `k`; refused where `a` is a device (R53, U15, log 10). -/
def loadByte (s : State) (a : DataAddr) (k : Byte → Result) : Result :=
  if a ∈ s.cfg.deviceMap then .refused (.dataDevice a) else k (s.dataByte a)

/-- `MemWrite(a, 1, v)`; refused where `a` is a device (R53, U15, log 10). -/
def storeByte (s : State) (a : DataAddr) (v : Byte) : Result :=
  if a ∈ s.cfg.deviceMap then .refused (.dataDevice a) else .next (s.setByte a v)

end Sys2Proof.Machine
end

