-- ==== Sys2Proof/Machine/Operands.lean ====
section
/-! DEFINITION. The operand forms: data addresses (42_data_move.md R149), relative targets (43_control_transfer.md R161), and the layout of a return address (20_memory.md R59). -/

namespace Sys2Proof.Machine

/-- `dpage(a8) = pr : a8` (R55). -/
def State.dpage (s : State) (a8 : BitVec 8) : DataAddr := s.pr ++ a8

/-- The 5-bit offset of `stz` and `ldz` as 8 bits: zero-extended, or sign-extended with `ZOFF_SIGNED` (R57, D5). -/
def zOffset (cfg : Config.Params) (off : Offset) : BitVec 8 :=
  if cfg.zoffSigned then off.signExtend 8 else off.zeroExtend 8

/-- Indirect mode (R57): `r7` plus the offset modulo 256, in the page PR selects. -/
def State.zAddr (s : State) (off : Offset) : DataAddr := s.dpage (s.reg .r7 + zOffset s.cfg off)

/-- `STACK_BASE`, a multiple of 1024 (R7, R58, D6). -/
def stackBase (cfg : Config.Params) : DataAddr := cfg.stackQuarter ++ 0#10

/-- `stk(p) = STACK_BASE + zext_12(p)` (R58, D6). -/
def stk (cfg : Config.Params) (p : StackPtr) : DataAddr := stackBase cfg + p.zeroExtend 12

/-- The relative target (R161): the address A of the branch, plus `PC_REL_BASE`, plus the offset sign-extended. PC is A + 1
while the branch executes (R27). -/
def State.relTarget (s : State) (off : Offset) : ProgAddr :=
  (s.pc - 1) + s.cfg.pcRelBase.zeroExtend 11 + off.signExtend 11

/-- The low byte of a return address (R59). -/
def retLow (a : ProgAddr) : Byte := a.extractLsb' 0 8

/-- The high byte of a return address: `0b00000 : a[10:8]` (R59, D7). -/
def retHigh (a : ProgAddr) : Byte := 0#5 ++ a.extractLsb' 8 3

/-- The byte of a return address that has the lower stack slot, by `RET_LOW_FIRST` (R59, D7). -/
def retFirst (cfg : Config.Params) (a : ProgAddr) : Byte := if cfg.retLowFirst then retLow a else retHigh a

/-- The byte of a return address that has the higher stack slot. -/
def retSecond (cfg : Config.Params) (a : ProgAddr) : Byte := if cfg.retLowFirst then retHigh a else retLow a

/-- The return address of the bytes at the lower and the higher slot: `hi[2:0] : lo` (R59, R166). -/
def retJoin (cfg : Config.Params) (first second : Byte) : ProgAddr :=
  if cfg.retLowFirst then second.extractLsb' 0 3 ++ first else first.extractLsb' 0 3 ++ second

end Sys2Proof.Machine
end

