-- ==== Sys2Proof/Machine/Flags.lean ====
section
/-! DEFINITION. The status bits: `set_flags` (40_arith_logic.md R111), the carry, borrow and overflow formulas of R112 to R117, the condition (43_control_transfer.md R163), and SCR as `lcr` reads it (44_system.md R184). -/

namespace Sys2Proof.Machine

/-- `set_flags(c, v, r)` (R111): C, V, N, S, Z; P is left alone. -/
def setFlags (x : Scr) (c v : Bool) (r : Byte) : Scr where
  c := c
  v := v
  n := r.getLsbD 7
  s := r.getLsbD 7 ^^ v
  z := r == 0x00
  p := x.p

/-- The carry-in of `addc` and `subc` as a number. -/
def carryIn (x : Scr) : Nat := x.c.toNat

/-- The 8-bit sum (R112, R113). -/
def addResult (a b : Byte) (cin : Nat) : Byte := a + b + BitVec.ofNat 8 cin

/-- Carry out of bit 7 of an addition: bit 8 of the 9-bit sum (R112, R113). -/
def addCarry (a b : Byte) (cin : Nat) : Bool :=
  (a.zeroExtend 9 + b.zeroExtend 9 + BitVec.ofNat 9 cin).getLsbD 8

/-- Signed overflow of an addition with result `r` (R112, R113). -/
def addOverflow (a b r : Byte) : Bool := (a.getLsbD 7 == b.getLsbD 7) && (r.getLsbD 7 != a.getLsbD 7)

/-- The 8-bit difference (R114, R115). -/
def subResult (a b : Byte) (cin : Nat) : Byte := a - b - BitVec.ofNat 8 cin

/-- The borrow of a subtraction, the integers not reduced (R114, R115). -/
def subBorrow (a b : Byte) (cin : Nat) : Bool := decide (a.toNat < b.toNat + cin)

/-- Signed overflow of a subtraction with result `r` (R114, R115). -/
def subOverflow (a b r : Byte) : Bool := (a.getLsbD 7 != b.getLsbD 7) && (r.getLsbD 7 != a.getLsbD 7)

/-- Write result `r` to `rd` and the five status bits (R110, R33). -/
def State.aluWrite (s : State) (rd : Reg) (c v : Bool) (r : Byte) : State :=
  (s.setReg rd r).setScr (setFlags s.scr c v r)

/-- The effect of a logic instruction with result `r` (R118): V = 0 and C a draw (U4, log 1). -/
def State.logicWrite (s : State) (rd : Reg) (r : Byte) : State :=
  (s.aluWrite rd (Config.freeCarry s.draws) false r).drawn

/-- The effect of a shift with shifted-out bit `c` and result `r` (R131, R132): V a draw, S = N xor V (U5, log 2). -/
def State.shiftWrite (s : State) (rd : Reg) (c : Bool) (r : Byte) : State :=
  (s.aluWrite rd c (Config.freeOverflow s.draws) r).drawn

/-- `cond_true(Sf, cc)` (R163). -/
def condTrue (x : Scr) (sf : Bool) : Cond → Bool
  | .c => x.c
  | .v => x.v
  | .n => x.n
  | .s => x.s
  | .z => x.z
  | .eq => x.z
  | .lt => if sf then x.s else x.c
  | .gt => if sf then !x.s && !x.z else !x.c && !x.z

/-- `scr[5:0]`: P Z S N V C from bit 5 down (R30, R184). -/
def Scr.bits (x : Scr) : BitVec 6 :=
  BitVec.ofBool x.p ++ BitVec.ofBool x.z ++ BitVec.ofBool x.s ++ BitVec.ofBool x.n ++ BitVec.ofBool x.v ++
    BitVec.ofBool x.c

end Sys2Proof.Machine
end

