-- ==== Sys2Proof/Machine/ArithLogic.lean ====
section
/-! DEFINITION. The arithmetic-logic instructions (40_arith_logic.md). Operands are read before anything is written (R110). -/

namespace Sys2Proof.Machine

/-- `Rd <- Rd + b + cin` with the flags of an addition (R112, R113). -/
def addTo (rd : Reg) (b : Byte) (cin : Nat) (s : State) : Result :=
  let a := s.reg rd
  let r := addResult a b cin
  .next (s.aluWrite rd (addCarry a b cin) (addOverflow a b r) r)

/-- `Rd <- Rd - b - cin` with the flags of a subtraction (R114, R115). -/
def subFrom (rd : Reg) (b : Byte) (cin : Nat) (s : State) : Result :=
  let a := s.reg rd
  let r := subResult a b cin
  .next (s.aluWrite rd (subBorrow a b cin) (subOverflow a b r) r)

/-- `add rD, rS` (R112). -/
def execAdd (rd rs : Reg) (s : State) : Result := addTo rd (s.reg rs) 0 s

/-- `addc rD, rS` (R113). -/
def execAddc (rd rs : Reg) (s : State) : Result := addTo rd (s.reg rs) (carryIn s.scr) s

/-- `sub rD, rS` (R114). -/
def execSub (rd rs : Reg) (s : State) : Result := subFrom rd (s.reg rs) 0 s

/-- `subc rD, rS` (R115). -/
def execSubc (rd rs : Reg) (s : State) : Result := subFrom rd (s.reg rs) (carryIn s.scr) s

/-- `inc rD`: an addition of 1 in every respect (R116). -/
def execInc (rd : Reg) (s : State) : Result :=
  let a := s.reg rd
  .next (s.aluWrite rd (a == 0xFF) (a == 0x7F) (a + 1))

/-- `dec rD`: a subtraction of 1 in every respect (R117). -/
def execDec (rd : Reg) (s : State) : Result :=
  let a := s.reg rd
  .next (s.aluWrite rd (a == 0x00) (a == 0x80) (a - 1))

/-- `and rD, rS` (R118). -/
def execAnd (rd rs : Reg) (s : State) : Result := .next (s.logicWrite rd (s.reg rd &&& s.reg rs))

/-- `or rD, rS` (R119). -/
def execOr (rd rs : Reg) (s : State) : Result := .next (s.logicWrite rd (s.reg rd ||| s.reg rs))

/-- `xor rD, rS` (R120). -/
def execXor (rd rs : Reg) (s : State) : Result := .next (s.logicWrite rd (s.reg rd ^^^ s.reg rs))

/-- `not rD`: the one's complement (R121, C14). -/
def execNot (rd : Reg) (s : State) : Result := .next (s.logicWrite rd (~~~(s.reg rd)))

end Sys2Proof.Machine
end

