-- ==== Sys2Proof/Machine/Control.lean ====
section
/-! DEFINITION. The program control instructions (43_control_transfer.md). PC is A + 1 on entry (R27); none writes a status bit or a general register (R169). -/

namespace Sys2Proof.Machine

/-- `jpa target` (R160). -/
def execJpa (target : ProgAddr) (s : State) : Result := .next (s.setPc target)

/-- `bra target` (R162). -/
def execBra (off : Offset) (s : State) : Result := .next (s.setPc (s.relTarget off))

/-- `brs cc, target`: branch if the condition is true (R164). -/
def execBrs (sf : Bool) (off : Offset) (cc : Cond) (s : State) : Result :=
  .next (if condTrue s.scr sf cc then s.setPc (s.relTarget off) else s)

/-- `brc cc, target`: branch if the condition is false (R167). -/
def execBrc (sf : Bool) (off : Offset) (cc : Cond) (s : State) : Result :=
  .next (if condTrue s.scr sf cc then s else s.setPc (s.relTarget off))

/-- `call target`: the return address to the slots `sp` and `sp + 1`, `sp + 2`, and the jump (R165). -/
def execCall (target : ProgAddr) (s : State) : Result :=
  andThen (storeByte s (stk s.cfg s.sp) (retFirst s.cfg s.pc)) fun t =>
    andThen (storeByte t (stk s.cfg (s.sp + 1)) (retSecond s.cfg s.pc)) fun u =>
      .next ((u.setSp (s.sp + 2)).setPc target)

/-- `ret`: PC from the slots `sp - 2` and `sp - 1`, `sp - 2` (R166). -/
def execRet (s : State) : Result :=
  loadByte s (stk s.cfg (s.sp - 2)) fun first =>
    loadByte s (stk s.cfg (s.sp - 1)) fun second =>
      .next ((s.setPc (retJoin s.cfg first second)).setSp (s.sp - 2))

end Sys2Proof.Machine
end

