-- ==== Sys2Proof/Machine/DataMove.lean ====
section
/-! DEFINITION. The data movement instructions (42_data_move.md). None writes a status bit (R140). -/

namespace Sys2Proof.Machine

/-- `mov rD, rS` (R141). -/
def execMov (rd rs : Reg) (s : State) : Result := .next (s.setReg rd (s.reg rs))

/-- `psh rS`: store at `sp`, then `sp + 1` (R142). -/
def execPsh (rs : Reg) (s : State) : Result :=
  andThen (storeByte s (stk s.cfg s.sp) (s.reg rs)) fun t => .next (t.setSp (s.sp + 1))

/-- `pll rD`: load from `sp - 1`, then `sp - 1` (R143). -/
def execPll (rd : Reg) (s : State) : Result :=
  loadByte s (stk s.cfg (s.sp - 1)) fun b => .next ((s.setReg rd b).setSp (s.sp - 1))

/-- `stz off, rS` (R144). -/
def execStz (off : Offset) (rs : Reg) (s : State) : Result := storeByte s (s.zAddr off) (s.reg rs)

/-- `ldz rD, off`; the address is formed before `rD` is written (R145). -/
def execLdz (rd : Reg) (off : Offset) (s : State) : Result :=
  loadByte s (s.zAddr off) fun b => .next (s.setReg rd b)

/-- `st addr, rS` (R146). -/
def execSt (addr : BitVec 8) (rs : Reg) (s : State) : Result := storeByte s (s.dpage addr) (s.reg rs)

/-- `ld rD, addr` (R147). -/
def execLd (rd : Reg) (addr : BitVec 8) (s : State) : Result :=
  loadByte s (s.dpage addr) fun b => .next (s.setReg rd b)

/-- `ldi rD, data` (R148). -/
def execLdi (rd : Reg) (data : Byte) (s : State) : Result := .next (s.setReg rd data)

end Sys2Proof.Machine
end

