-- ==== Sys2Proof/Machine/Shift.lean ====
section
/-! DEFINITION. The shift instructions (41_shift.md): logical shifts by one bit position. -/

namespace Sys2Proof.Machine

/-- `sll rD`: `r <- a[6:0] : 0`, C the bit shifted out, `a[7]` (R131). -/
def execSll (rd : Reg) (s : State) : Result :=
  let a := s.reg rd
  .next (s.shiftWrite rd (a.getLsbD 7) (a.extractLsb' 0 7 ++ 0#1))

/-- `slr rD`: `r <- 0 : a[7:1]`, C the bit shifted out, `a[0]` (R132). -/
def execSlr (rd : Reg) (s : State) : Result :=
  let a := s.reg rd
  .next (s.shiftWrite rd (a.getLsbD 0) (0#1 ++ a.extractLsb' 1 7))

end Sys2Proof.Machine
end

