-- ==== Sys2Proof/Machine/System.lean ====
section
/-! DEFINITION. The system control instructions and the free opcodes (44_system.md). Every instruction may run at any time: there is one mode (60_exceptions.md R208). -/

namespace Sys2Proof.Machine

/-- `nop` (R180): nothing beyond the fetch's step of PC. -/
def execNop (s : State) : Result := .next s

/-- `res2`, a free opcode that currently is a `nop` (R181, D21). -/
def execRes2 (s : State) : Result := .next s

/-- `res3`, a free opcode that currently is a `nop` (R182, D21). -/
def execRes3 (s : State) : Result := .next s

/-- `lcr rD`: `draw(2) : scr[5:0]` (R184, U6, log 3). -/
def execLcr (rd : Reg) (s : State) : Result :=
  .next ((s.setReg rd (Config.freeHighBits s.draws ++ s.scr.bits)).drawn)

/-- `stcr rS`: bit 5 of the source to P; the status bits are write protected (R185). -/
def execStcr (rs : Reg) (s : State) : Result := .next (s.setP ((s.reg rs).getLsbD 5))

/-- `hlt` (R186). -/
def execHlt (s : State) : Result := .next s.halt

end Sys2Proof.Machine
end

