-- ==== Sys2Proof/Machine/Dispatch.lean ====
section
/-! DEFINITION. The dispatch: each instruction to its own meaning, on the state its fetch leaves (00_scope.md R11). -/

namespace Sys2Proof.Machine

def exec (i : Instr) (s : State) : Host.Outcome State Fault Refusal :=
  match i with
  | .nop => Sys2Proof.Machine.execNop s
  | .add rd rs => Sys2Proof.Machine.execAdd rd rs s
  | .addc rd rs => Sys2Proof.Machine.execAddc rd rs s
  | .sub rd rs => Sys2Proof.Machine.execSub rd rs s
  | .subc rd rs => Sys2Proof.Machine.execSubc rd rs s
  | .inc rd => Sys2Proof.Machine.execInc rd s
  | .dec rd => Sys2Proof.Machine.execDec rd s
  | .and rd rs => Sys2Proof.Machine.execAnd rd rs s
  | .or rd rs => Sys2Proof.Machine.execOr rd rs s
  | .xor rd rs => Sys2Proof.Machine.execXor rd rs s
  | .not rd => Sys2Proof.Machine.execNot rd s
  | .sll rd => Sys2Proof.Machine.execSll rd s
  | .slr rd => Sys2Proof.Machine.execSlr rd s
  | .mov rd rs => Sys2Proof.Machine.execMov rd rs s
  | .psh rs => Sys2Proof.Machine.execPsh rs s
  | .pll rd => Sys2Proof.Machine.execPll rd s
  | .stz off rs => Sys2Proof.Machine.execStz off rs s
  | .ldz rd off => Sys2Proof.Machine.execLdz rd off s
  | .st addr rs => Sys2Proof.Machine.execSt addr rs s
  | .ld rd addr => Sys2Proof.Machine.execLd rd addr s
  | .ldi rd data => Sys2Proof.Machine.execLdi rd data s
  | .jpa target => Sys2Proof.Machine.execJpa target s
  | .bra off => Sys2Proof.Machine.execBra off s
  | .brs sf off cc => Sys2Proof.Machine.execBrs sf off cc s
  | .brc sf off cc => Sys2Proof.Machine.execBrc sf off cc s
  | .call target => Sys2Proof.Machine.execCall target s
  | .ret => Sys2Proof.Machine.execRet s
  | .lcr rd => Sys2Proof.Machine.execLcr rd s
  | .stcr rs => Sys2Proof.Machine.execStcr rs s
  | .res2 => Sys2Proof.Machine.execRes2 s
  | .res3 => Sys2Proof.Machine.execRes3 s
  | .hlt => Sys2Proof.Machine.execHlt s

end Sys2Proof.Machine
end

