-- ==== Sys2Proof/Machine/Fetch.lean ====
section
/-! DEFINITION. What a step does before the instruction's own rule: the page write (10_state.md R36) and the fetch (00_scope.md R11). -/

namespace Sys2Proof.Machine

/-- The 4 least significant bits of a byte, as the page write takes them from `r6` (R36). -/
def pageOf (b : Byte) : Page := b.extractLsb' 0 4

/-- The page write (R36): `pr <- x[6][3:0]; P <- 0`. It is done when P = 1. -/
def State.pageWrite (s : State) : State := (s.setPr (pageOf (s.reg .r6))).setP false

/-- The state after the fetch of word `w`: `ir <- w; pc <- pc + 1` modulo 2048 (R11, R28). -/
def State.fetched (s : State) (w : Word) : State := (s.setIr w).setPc (s.pc + 1)

/-- The fetch; a word that is not placed faults (R51, U3, log 6). -/
def fetch (s : State) : Result :=
  match s.progWord? s.pc with
  | some w => .next (s.fetched w)
  | none => .fault (.programWordNotPlaced s.pc)

end Sys2Proof.Machine
end

