-- ==== Sys2Proof/Machine/Cycle.lean ====
section
/-! DEFINITION. One step of a machine that is not halted (00_scope.md R11): the page write, the fetch and the decoded instruction, with the page-write window of 70_reset_and_hazards.md R227. -/

namespace Sys2Proof.Machine

/-- The destination register: the Rd field of the instructions that write a general register. -/
def destReg : Instr → Option Reg
  | .add rd _ | .addc rd _ | .sub rd _ | .subc rd _ => some rd
  | .inc rd | .dec rd | .not rd | .sll rd | .slr rd => some rd
  | .and rd _ | .or rd _ | .xor rd _ | .mov rd _ => some rd
  | .pll rd | .ldz rd _ | .ld rd _ | .ldi rd _ | .lcr rd => some rd
  | .nop | .psh _ | .stz _ _ | .st _ _ | .jpa _ | .bra _ | .brs _ _ _ | .brc _ _ _ => none
  | .call _ | .ret | .stcr _ | .res2 | .res3 | .hlt => none

/-- What R227 forbids right after a `stcr` that set P: `st`, `ld`, `stz`, `ldz` (they read PR), `lcr`, `stcr` (they read or
write P), `hlt`, and any instruction whose destination register is `r6`. -/
def windowHazard (i : Instr) : Bool :=
  match i with
  | .st _ _ | .ld _ _ | .stz _ _ | .ldz _ _ | .lcr _ | .stcr _ | .hlt => true
  | _ => destReg i == some .r6

/-- Whether an instruction is a `stcr`, the one that writes P. -/
def writesP : Instr → Bool
  | .stcr _ => true
  | _ => false

/-- A page write that comes after the window instruction `i`, run from `s` to `t` (R227, log 4). After `hlt` the clock is off
and it never comes. After a `stcr` both the write and the P that was just set are as the choice says. Otherwise it copies
the old or the new `r6`, as the choice says, and clears P. -/
def lateWrite (w : Config.WindowChoice) (i : Instr) (s t : State) : State :=
  if t.halted then t
  else if writesP i then
    (if t.scr.p || w.keepsWrite then t.setPr (pageOf (t.reg .r6)) else t).setP (t.scr.p && w.keepsRequest)
  else (t.setPr (pageOf ((if w.newR6 then t else s).reg .r6))).setP false

/-- The window instruction with the page write where choice `w` puts it. -/
def placeWrite (w : Config.WindowChoice) (i : Instr) (s : State) : Result :=
  if w.late then andThen (exec i s) fun t => .next (lateWrite w i s t) else exec i s.pageWrite

/-- An instruction with a page write pending, on the state its fetch leaves, P still 1. The page write comes first (R11,
R36, R203); only right after a `stcr` that set P, and only for an instruction of the hazard list, is its placement a free
value (R227, U7, log 4). The fetch neither reads nor writes what the page write does, so their order shows nowhere. -/
def runWindow (i : Instr) (s : State) : Result :=
  if s.window && windowHazard i then placeWrite (Config.freeWindow s.draws) i s.drawn else exec i s.pageWrite

/-- Perform the instruction in IR on the state its fetch leaves. -/
def perform (s : State) : Result :=
  if s.scr.p then runWindow (decode s.ir) s else exec (decode s.ir) s

/-- Fetch and perform (R11). -/
def cycle (s : State) : Result := andThen (fetch s) perform

end Sys2Proof.Machine
end

