-- ==== Sys2Proof/Machine/Step.lean ====
section
/-! DEFINITION. The step of the machine (00_scope.md R11), and a program word placed where it fetches. -/

namespace Sys2Proof.Machine

/-- One step (R11): none when halted (R39, R186, log 11), else page write, fetch, decode, instruction. -/
def step (s : State) : Host.Outcome State Fault Refusal :=
  if s.halted then .fault .halted else cycle s

/-- `s` with a program word placed at PC, where the next step fetches: the environment's load of the program (R225, log 13).
`nbits` and `w` are as for `decodeTableWord`. -/
def State.withFetchWord (s : State) (nbits w : Nat) : State :=
  s.placeWord s.pc (BitVec.ofNat 16 (w % 2 ^ nbits))

end Sys2Proof.Machine
end

