-- ==== Sys2Proof/Safety.lean ====
section
/-! DEFINITION. The terms claims are stated in: the invariant, what an instruction may change, and the effect of an arithmetic, logic or shift instruction in integers. None of it is used by the machine. -/

namespace Sys2Proof.Machine

/-! ### The invariant -/

/-- What every step keeps: both memories in canonical form and inside their address spaces (R50), S = N xor V (R32, D12), and
Z only with N = 0 (R32), and an open window of R227 only while P = 1 (R36, log 17). -/
structure State.Inv (s : State) : Prop where
  data : Memory.wf 4096 s.dmem
  prog : Memory.wf 2048 s.pmem
  sign : s.scr.s = (s.scr.n ^^ s.scr.v)
  zero : s.scr.z = true → s.scr.n = false
  window : s.window = true → s.scr.p = true

/-! ### What an instruction leaves alone -/

/-- What `t` shares with `s`: every general register but those of `regs`, every data byte but those at `data`, all of program
memory, IR, PR, whether the window of R227 is open, and the parameters. PC, SP, SCR and the halt state are stated beside it. -/
structure Frame (regs : List Reg) (data : List DataAddr) (s t : State) : Prop where
  regs : ∀ r, r ∉ regs → t.reg r = s.reg r
  written : ∀ a, a ∉ data → t.written? a = s.written? a
  bytes : ∀ a, a ∉ data → t.dataByte a = s.dataByte a
  prog : ∀ a, t.progWord? a = s.progWord? a
  ir : t.ir = s.ir
  pr : t.pr = s.pr
  window : t.window = s.window
  cfg : t.cfg = s.cfg

/-- The five status bits C, V, N, S, Z are the same; P is not spoken of. -/
structure SameStatus (x y : Scr) : Prop where
  c : y.c = x.c
  v : y.v = x.v
  n : y.n = x.n
  s : y.s = x.s
  z : y.z = x.z

/-- What the arithmetic-logic and shift instructions keep beside the frame: P, PC, SP and the halt state (R110, R130). -/
structure AluFrame (rd : Reg) (s t : State) : Prop where
  frame : Frame [rd] [] s t
  p : t.scr.p = s.scr.p
  pc : t.pc = s.pc
  sp : t.sp = s.sp
  halted : t.halted = s.halted

/-! ### Effects in integers -/

/-- An arithmetic instruction whose exact result is `u` on unsigned and `i` on signed operands (R32, R112 to R117): the low 8
bits of `u` go to `rd`; C says that `u` is no unsigned byte (a carry or a borrow), V that `i` is no signed byte, N is the
sign bit of the result, S the sign of `i`, Z that the result is 0. -/
structure ArithEffect (rd : Reg) (u i : Int) (s t : State) : Prop where
  result : ((t.reg rd).toNat : Int) = u % 256
  carry : t.scr.c = true ↔ u < 0 ∨ 255 < u
  overflow : t.scr.v = true ↔ i < -128 ∨ 127 < i
  negative : t.scr.n = true ↔ (t.reg rd).toInt < 0
  sign : t.scr.s = true ↔ i < 0
  zero : t.scr.z = true ↔ t.reg rd = 0
  rest : AluFrame rd s t

/-- A logic instruction with result `r` (R118 to R121): V = 0, N and Z from the result, S = N; C is open (U4, log 1). -/
structure LogicEffect (rd : Reg) (r : Byte) (s t : State) : Prop where
  result : t.reg rd = r
  overflow : t.scr.v = false
  negative : t.scr.n = true ↔ r.toInt < 0
  sign : t.scr.s = t.scr.n
  zero : t.scr.z = true ↔ r = 0
  rest : AluFrame rd s t

/-- A shift with unsigned result `r` and shifted-out bit `c` (R131, R132): C, N and Z are fixed; V is open and S = N xor V
(U5, log 2). -/
structure ShiftEffect (rd : Reg) (r : Nat) (c : Prop) (s t : State) : Prop where
  result : (t.reg rd).toNat = r
  carry : t.scr.c = true ↔ c
  negative : t.scr.n = true ↔ 128 ≤ r
  sign : t.scr.s = (t.scr.n ^^ t.scr.v)
  zero : t.scr.z = true ↔ r = 0
  rest : AluFrame rd s t

/-! ### Classes of instructions, from the spec's lists -/

/-- The twelve instructions that write C, V, N, S, Z (R33). -/
def writesStatus : Instr → Bool
  | .add _ _ | .addc _ _ | .sub _ _ | .subc _ _ | .inc _ | .dec _ => true
  | .and _ _ | .or _ _ | .xor _ _ | .not _ | .sll _ | .slr _ => true
  | .nop | .mov _ _ | .psh _ | .pll _ | .stz _ _ | .ldz _ _ | .st _ _ | .ld _ _ | .ldi _ _ => false
  | .jpa _ | .bra _ | .brs _ _ _ | .brc _ _ _ | .call _ | .ret => false
  | .lcr _ | .stcr _ | .res2 | .res3 | .hlt => false

/-- The instructions that write PC beyond the fetch (R25). -/
def writesPc : Instr → Bool
  | .jpa _ | .bra _ | .brs _ _ _ | .brc _ _ _ | .call _ | .ret => true
  | .nop | .add _ _ | .addc _ _ | .sub _ _ | .subc _ _ | .inc _ | .dec _ => false
  | .and _ _ | .or _ _ | .xor _ _ | .not _ | .sll _ | .slr _ | .mov _ _ | .psh _ | .pll _ => false
  | .stz _ _ | .ldz _ _ | .st _ _ | .ld _ _ | .ldi _ _ | .lcr _ | .stcr _ | .res2 | .res3 | .hlt => false

/-- What an instruction adds to SP, modulo 1024 (R38, R149). -/
def spChange : Instr → StackPtr
  | .psh _ => 1
  | .pll _ => -1
  | .call _ => 2
  | .ret => -2
  | .nop | .add _ _ | .addc _ _ | .sub _ _ | .subc _ _ | .inc _ | .dec _ => 0
  | .and _ _ | .or _ _ | .xor _ _ | .not _ | .sll _ | .slr _ | .mov _ _ => 0
  | .stz _ _ | .ldz _ _ | .st _ _ | .ld _ _ | .ldi _ _ => 0
  | .jpa _ | .bra _ | .brs _ _ _ | .brc _ _ _ | .lcr _ | .stcr _ | .res2 | .res3 | .hlt => 0

/-- The data addresses an instruction stores to (R149), with the functions its meaning uses. -/
def storeAddrs (i : Instr) (s : State) : List DataAddr :=
  match i with
  | .psh _ => [stk s.cfg s.sp]
  | .stz off _ => [s.zAddr off]
  | .st addr _ => [s.dpage addr]
  | .call _ => [stk s.cfg s.sp, stk s.cfg (s.sp + 1)]
  | .nop | .add _ _ | .addc _ _ | .sub _ _ | .subc _ _ | .inc _ | .dec _ => []
  | .and _ _ | .or _ _ | .xor _ _ | .not _ | .sll _ | .slr _ | .mov _ _ | .pll _ => []
  | .ldz _ _ | .ld _ _ | .ldi _ _ | .jpa _ | .bra _ | .brs _ _ _ | .brc _ _ _ => []
  | .ret | .lcr _ | .stcr _ | .res2 | .res3 | .hlt => []

/-- The data addresses an instruction loads from (R149), with the functions its meaning uses. -/
def loadAddrs (i : Instr) (s : State) : List DataAddr :=
  match i with
  | .pll _ => [stk s.cfg (s.sp - 1)]
  | .ldz _ off => [s.zAddr off]
  | .ld _ addr => [s.dpage addr]
  | .ret => [stk s.cfg (s.sp - 2), stk s.cfg (s.sp - 1)]
  | .nop | .add _ _ | .addc _ _ | .sub _ _ | .subc _ _ | .inc _ | .dec _ => []
  | .and _ _ | .or _ _ | .xor _ _ | .not _ | .sll _ | .slr _ | .mov _ _ | .psh _ => []
  | .stz _ _ | .st _ _ | .ldi _ _ | .jpa _ | .bra _ | .brs _ _ _ | .brc _ _ _ => []
  | .call _ | .lcr _ | .stcr _ | .res2 | .res3 | .hlt => []

/-- The `match` column of R88: the word with all non-opcode bits zero. -/
def matchWord : Instr → Word
  | .nop => 0x0000 | .add _ _ => 0x0800 | .addc _ _ => 0x1000 | .sub _ _ => 0x1800
  | .subc _ _ => 0x2000 | .inc _ => 0x2800 | .dec _ => 0x3000 | .and _ _ => 0x3800
  | .or _ _ => 0x4000 | .xor _ _ => 0x4800 | .not _ => 0x5000 | .sll _ => 0x5800
  | .slr _ => 0x6000 | .mov _ _ => 0x6800 | .psh _ => 0x7000 | .pll _ => 0x7800
  | .stz _ _ => 0x8000 | .ldz _ _ => 0x8800 | .st _ _ => 0x9000 | .ld _ _ => 0x9800
  | .ldi _ _ => 0xA000 | .jpa _ => 0xA800 | .bra _ => 0xB000 | .brs _ _ _ => 0xB800
  | .brc _ _ _ => 0xC000 | .call _ => 0xC800 | .ret => 0xD000 | .lcr _ => 0xD800
  | .stcr _ => 0xE000 | .res2 => 0xE800 | .res3 => 0xF000 | .hlt => 0xF800

/-- A field of the instruction word: `v` shifted left by `k`, as the rules write a word (`0x0800 | d<<8 | s`). -/
def atBit {n : Nat} (v : BitVec n) (k : Nat) : Word := v.zeroExtend 16 <<< k

end Sys2Proof.Machine
end

