-- ==== Sys2Proof/Certificates/Slice0/Obligations.lean ====
section
/-! DEFINITION. The statements for the provers. Each docstring names the rules or the decisions (92_eei_decisions.md) a statement rests on. `exec` runs on the state the fetch leaves, so PC there is A + 1 (R27, D2). -/

open Sys2Proof Sys2Proof.Machine

/-! ### Encoding -/

/-- Words written out from the layouts of R83 decode to the instruction they stand for, with X bits 0 or 1 (R84, D1). -/
def Obligations.SpecWordsDecode : Prop :=
  decode 0b0000100100000010 = .add .r1 .r2 ∧ decode 0b0000100111111010 = .add .r1 .r2 ∧
  decode 0b0010101000000000 = .inc .r2 ∧ decode 0b0101100100000000 = .sll .r1 ∧
  decode 0b0111000000000111 = .psh .r7 ∧ decode 0b1000000000101010 = .stz 5 .r2 ∧
  decode 0b1000111111111000 = .ldz .r7 31 ∧ decode 0b1001000110100001 = .st 0x34 .r1 ∧
  decode 0b1001101100110101 = .ld .r3 0x35 ∧ decode 0b1010000101011100 = .ldi .r1 0x5C ∧
  decode 0b1010100100100011 = .jpa 0x123 ∧ decode 0b1011000011111000 = .bra 0b11111 ∧
  decode 0b1011110000001110 = .brs true 1 .lt ∧ decode 0b1100000011101100 = .brc false 0b11101 .z ∧
  decode 0b1100101010100000 = .call 0x2A0 ∧ decode 0b1101110000000000 = .lcr .r4 ∧
  decode 0b1110000000000110 = .stcr .r6 ∧ decode 0b1111111111111111 = .hlt ∧ decode 0b0000011111111111 = .nop

/-- Decoding an encoded instruction gives it back, for every instruction and every operand (R82, R83, R88, R90). -/
def Obligations.DecodeOfEncode : Prop := ∀ i : Instr, decode (encode i) = i

/-- Encoding a decoded word keeps every bit but the X bits, which become 0 (R83, R84, D1): no field is dropped or moved. -/
def Obligations.EncodeOfDecode : Prop := ∀ w : Word, encode (decode w) = w &&& ~~~unusedBits w

/-- A word with any values in its X bits is the same instruction (R84, D1). -/
def Obligations.UnusedBitsIgnored : Prop := ∀ w x : Word, decode (w ^^^ (x &&& unusedBits w)) = decode w

/-- The opcode map (R88): the row a word decodes to is the one whose `match` is the word under mask 0xF800, and every
five-bit opcode value belongs to exactly one row. -/
def Obligations.OpcodeMapComplete : Prop :=
  (∀ w : Word, matchWord (decode w) = w &&& 0xF800) ∧
  (∀ op : BitVec 5, ∃ i, matchWord i = op ++ 0#11) ∧
  (∀ i j : Instr, matchWord i = matchWord j ↔ i.ctorIdx = j.ctorIdx)

/-! ### The step -/

/-- With no page write pending, a step at a placed word is the decoded instruction on the state with IR the word and PC
advanced by one (R11, R27, R28; D2, D4). -/
def Obligations.StepRunsDecodedInstruction : Prop :=
  ∀ (s : State) (w : Word), s.halted = false → s.scr.p = false → s.progWord? s.pc = some w →
    step s = exec (decode w) { s with ir := w, pc := s.pc + 1 }

/-- With a page write pending, the step first writes the low 4 bits of `r6` to PR and clears P, then runs the instruction: for
every instruction where no `stcr` set P (RESET_SCR did), and in the window of a `stcr` for those R227 admits (R11, R36, R203;
D13). -/
def Obligations.StepWritesPageFirst : Prop :=
  ∀ (s : State) (w : Word), s.halted = false → s.scr.p = true → s.progWord? s.pc = some w →
    s.window = false ∨ windowHazard (decode w) = false →
    step s = exec (decode w)
      { s with
        pr := (s.reg .r6).extractLsb' 0 4, scr := { s.scr with p := false }, window := false, ir := w, pc := s.pc + 1 }

/-- For every instruction R227 admits in the window, a page write placed after it (whatever the open choices) comes to the same
as one placed before it: the spec's choice of placement shows nowhere (R227, D13). -/
def Obligations.WindowPlacementsAgree : Prop :=
  ∀ (i : Instr) (c : Config.WindowChoice) (s : State), windowHazard i = false → s.halted = false → s.scr.p = true →
    andThen (exec i s) (fun t => .next (lateWrite c i s t)) = exec i s.pageWrite

/-- What a step in the window of a `stcr` does when the instruction is on R227's list: it is the instruction on the state with
the page write done, or on the state with the old PR and P = 1 and the page write after it (`draws` counts the choice). A next
state is the instruction's own in every field but PR, P and the window. Of those: unless it is `hlt` or `stcr`, P is 0 and PR
the low 4 bits of the old or the new `r6`; after `hlt` the write has happened or not; after `stcr` PR is old or new and P is at
most the bit it wrote (R227, U7, D13; the model's free choice, log 4). -/
def Obligations.WindowHazardOutcomes : Prop :=
  ∀ (s : State) (w : Word), s.halted = false → s.scr.p = true → s.window = true → s.progWord? s.pc = some w →
    windowHazard (decode w) = true →
    let late := { s with ir := w, pc := s.pc + 1, draws := s.draws + 1 }
    let early := { late with
      pr := (s.reg .r6).extractLsb' 0 4, scr := { s.scr with p := false }, window := false }
    (step s = exec (decode w) early ∨
      ∃ c, step s = andThen (exec (decode w) late) fun u => .next (lateWrite c (decode w) late u)) ∧
    ∀ t, step s = .next t →
      (exec (decode w) early = .next t ∨
        ∃ u, exec (decode w) late = .next u ∧
          t = { u with pr := t.pr, scr := { u.scr with p := t.scr.p }, window := t.window }) ∧
      if decode w = .hlt then
        (t.pr = (s.reg .r6).extractLsb' 0 4 ∧ t.scr.p = false) ∨ (t.pr = s.pr ∧ t.scr.p = true)
      else if writesP (decode w) = true then
        (t.pr = (s.reg .r6).extractLsb' 0 4 ∨ t.pr = s.pr) ∧ t.window = t.scr.p ∧
          (t.scr.p = true → ∃ rs, decode w = .stcr rs ∧ (s.reg rs).getLsbD 5 = true)
      else
        t.scr.p = false ∧ t.window = false ∧
          (t.pr = (s.reg .r6).extractLsb' 0 4 ∨ t.pr = (t.reg .r6).extractLsb' 0 4)

/-- A `stcr` whose source has bit 5 set, followed by an instruction R227 admits: after the first step P = 1 and PR is old, after
the second PR is the low 4 bits `r6` had and P = 0 (R36, R185, R227; D13). -/
def Obligations.PageSelectSequence : Prop :=
  ∀ (s : State) (w₁ w₂ : Word) (rs : Reg), s.halted = false → s.scr.p = false →
    s.progWord? s.pc = some w₁ → decode w₁ = .stcr rs → (s.reg rs).getLsbD 5 = true →
    s.progWord? (s.pc + 1) = some w₂ → windowHazard (decode w₂) = false →
    ∃ t, step s = .next t ∧ t.scr.p = true ∧ t.pr = s.pr ∧
      ∀ u, step t = .next u → u.pr = (s.reg .r6).extractLsb' 0 4 ∧ u.scr.p = false

/-- Where a step does not go on: a halted machine takes no step, the stuck end of a run (R39, R186; D17, U17; log 11), and a
program word that is not placed faults, no instruction being invented (R51, U3; D23; log 6). -/
def Obligations.StepStops : Prop :=
  (∀ s : State, s.halted = true → step s = .fault .halted) ∧
  (∀ s : State, s.halted = false → s.progWord? s.pc = none → step s = .fault (.programWordNotPlaced s.pc))

/-! ### Arithmetic -/

/-- `add` (R112; flags D8, D9, D12). -/
def Obligations.AddEffect : Prop :=
  ∀ (rd rs : Reg) (s : State), encode (.add rd rs) = 0x0800 ||| atBit rd.number 8 ||| atBit rs.number 0 ∧
    ∃ t, exec (.add rd rs) s = .next t ∧
      ArithEffect rd ((s.reg rd).toNat + (s.reg rs).toNat) ((s.reg rd).toInt + (s.reg rs).toInt) s t

/-- `addc`, with C as it was before (R113; flags D8, D9, D12). -/
def Obligations.AddcEffect : Prop :=
  ∀ (rd rs : Reg) (s : State), encode (.addc rd rs) = 0x1000 ||| atBit rd.number 8 ||| atBit rs.number 0 ∧
    ∃ t, exec (.addc rd rs) s = .next t ∧
      ArithEffect rd ((s.reg rd).toNat + (s.reg rs).toNat + s.scr.c.toNat)
        ((s.reg rd).toInt + (s.reg rs).toInt + s.scr.c.toNat) s t

/-- `sub`, C the borrow (R114; flags D8, D9, D12). -/
def Obligations.SubEffect : Prop :=
  ∀ (rd rs : Reg) (s : State), encode (.sub rd rs) = 0x1800 ||| atBit rd.number 8 ||| atBit rs.number 0 ∧
    ∃ t, exec (.sub rd rs) s = .next t ∧
      ArithEffect rd ((s.reg rd).toNat - (s.reg rs).toNat) ((s.reg rd).toInt - (s.reg rs).toInt) s t

/-- `subc`, with the borrow C as it was before (R115; flags D8, D9, D12). -/
def Obligations.SubcEffect : Prop :=
  ∀ (rd rs : Reg) (s : State), encode (.subc rd rs) = 0x2000 ||| atBit rd.number 8 ||| atBit rs.number 0 ∧
    ∃ t, exec (.subc rd rs) s = .next t ∧
      ArithEffect rd ((s.reg rd).toNat - (s.reg rs).toNat - s.scr.c.toNat)
        ((s.reg rd).toInt - (s.reg rs).toInt - s.scr.c.toNat) s t

/-- `inc` as an addition of 1 and `dec` as a subtraction of 1, flags included (R116, R117; flags D8, D9, D12). -/
def Obligations.IncDecEffect : Prop :=
  ∀ (rd : Reg) (s : State),
    encode (.inc rd) = 0x2800 ||| atBit rd.number 8 ∧ encode (.dec rd) = 0x3000 ||| atBit rd.number 8 ∧
    (∃ t, exec (.inc rd) s = .next t ∧ ArithEffect rd ((s.reg rd).toNat + 1) ((s.reg rd).toInt + 1) s t) ∧
    (∃ t, exec (.dec rd) s = .next t ∧ ArithEffect rd ((s.reg rd).toNat - 1) ((s.reg rd).toInt - 1) s t)

/-- The two-step 16-bit addition: `add` on the low bytes, `addc` on the high bytes, gives the 16-bit sum, its carry in C and its
signed overflow in V (R122, R112, R113; D4, D8, D9). -/
def Obligations.SixteenBitAddition : Prop :=
  ∀ (dl dh sl sh : Reg) (s : State), dh ≠ dl → sh ≠ dl →
    ∃ t u, exec (.add dl sl) s = .next t ∧ exec (.addc dh sh) t = .next u ∧
      let a := 256 * (s.reg dh).toNat + (s.reg dl).toNat
      let b := 256 * (s.reg sh).toNat + (s.reg sl).toNat
      let ai := 256 * (s.reg dh).toInt + (s.reg dl).toNat
      let bi := 256 * (s.reg sh).toInt + (s.reg sl).toNat
      256 * (u.reg dh).toNat + (u.reg dl).toNat = (a + b) % 65536 ∧
        (u.scr.c = true ↔ 65535 < a + b) ∧ (u.scr.v = true ↔ ai + bi < -32768 ∨ 32767 < ai + bi)

/-- The two-step 16-bit subtraction: `sub` then `subc` gives the 16-bit difference, and C and S are then the unsigned and the
signed "less than" of the 16-bit numbers (R122, R114, R115, R229; D4, D8, D9, D12). -/
def Obligations.SixteenBitSubtraction : Prop :=
  ∀ (dl dh sl sh : Reg) (s : State), dh ≠ dl → sh ≠ dl →
    ∃ t u, exec (.sub dl sl) s = .next t ∧ exec (.subc dh sh) t = .next u ∧
      let a := 256 * (s.reg dh).toNat + (s.reg dl).toNat
      let b := 256 * (s.reg sh).toNat + (s.reg sl).toNat
      let ai := 256 * (s.reg dh).toInt + (s.reg dl).toNat
      let bi := 256 * (s.reg sh).toInt + (s.reg sl).toNat
      256 * (u.reg dh).toNat + (u.reg dl).toNat = (65536 + a - b) % 65536 ∧
        (u.scr.c = true ↔ a < b) ∧ (u.scr.s = true ↔ ai < bi)

/-- The comparison idiom: after `sub rA, rB` the conditions `eq`, `ltu`, `gtu`, `lts`, `gts` say how A and B compared (R229,
R163, R114; D9, D12). -/
def Obligations.SubThenConditions : Prop :=
  ∀ (ra rb : Reg) (s : State), ∃ t, exec (.sub ra rb) s = .next t ∧
    (∀ sf, condTrue t.scr sf .eq = true ↔ s.reg ra = s.reg rb) ∧
    (condTrue t.scr false .lt = true ↔ (s.reg ra).toNat < (s.reg rb).toNat) ∧
    (condTrue t.scr false .gt = true ↔ (s.reg ra).toNat > (s.reg rb).toNat) ∧
    (condTrue t.scr true .lt = true ↔ (s.reg ra).toInt < (s.reg rb).toInt) ∧
    (condTrue t.scr true .gt = true ↔ (s.reg ra).toInt > (s.reg rb).toInt)

/-! ### Logic and shifts -/

/-- `and`, `or`, `xor`, `not`, with C left open (R118 to R121; flags D8, D10, D12, U4). -/
def Obligations.LogicEffects : Prop :=
  ∀ (rd rs : Reg) (s : State),
    (encode (.and rd rs) = 0x3800 ||| atBit rd.number 8 ||| atBit rs.number 0 ∧
      encode (.or rd rs) = 0x4000 ||| atBit rd.number 8 ||| atBit rs.number 0 ∧
      encode (.xor rd rs) = 0x4800 ||| atBit rd.number 8 ||| atBit rs.number 0 ∧
      encode (.not rd) = 0x5000 ||| atBit rd.number 8) ∧
    (∃ t, exec (.and rd rs) s = .next t ∧ LogicEffect rd (s.reg rd &&& s.reg rs) s t) ∧
    (∃ t, exec (.or rd rs) s = .next t ∧ LogicEffect rd (s.reg rd ||| s.reg rs) s t) ∧
    (∃ t, exec (.xor rd rs) s = .next t ∧ LogicEffect rd (s.reg rd ^^^ s.reg rs) s t) ∧
    (∃ t, exec (.not rd) s = .next t ∧ LogicEffect rd (BitVec.ofNat 8 (255 - (s.reg rd).toNat)) s t)

/-- `sll` doubles modulo 256 with C the old bit 7, `slr` halves with C the old bit 0; V is left open (R131, R132; flags D8, D11,
D12, U5). -/
def Obligations.ShiftEffects : Prop :=
  ∀ (rd : Reg) (s : State),
    encode (.sll rd) = 0x5800 ||| atBit rd.number 8 ∧ encode (.slr rd) = 0x6000 ||| atBit rd.number 8 ∧
    (∃ t, exec (.sll rd) s = .next t ∧
      ShiftEffect rd (2 * (s.reg rd).toNat % 256) (128 ≤ (s.reg rd).toNat) s t) ∧
    (∃ t, exec (.slr rd) s = .next t ∧
      ShiftEffect rd ((s.reg rd).toNat / 2) ((s.reg rd).toNat % 2 = 1) s t)

/-! ### Data movement -/

/-- `mov` (R141): the source to the destination and nothing else, `r6` and `r7` included; PR is not changed. -/
def Obligations.MovEffect : Prop :=
  ∀ (rd rs : Reg) (s : State), encode (.mov rd rs) = 0x6800 ||| atBit rd.number 8 ||| atBit rs.number 0 ∧
    ∃ t, exec (.mov rd rs) s = .next t ∧ t.reg rd = s.reg rs ∧ Frame [rd] [] s t ∧
      t.scr = s.scr ∧ t.pc = s.pc ∧ t.sp = s.sp ∧ t.halted = s.halted

/-- `ldi` (R148): the data byte to the destination and nothing else; `ldi rD, 0` does not set Z. -/
def Obligations.LdiEffect : Prop :=
  ∀ (rd : Reg) (data : Byte) (s : State), encode (.ldi rd data) = 0xA000 ||| atBit rd.number 8 ||| atBit data 0 ∧
    ∃ t, exec (.ldi rd data) s = .next t ∧ t.reg rd = data ∧ Frame [rd] [] s t ∧
      t.scr = s.scr ∧ t.pc = s.pc ∧ t.sp = s.sp ∧ t.halted = s.halted

/-- `psh` at a slot that is no device: the byte goes to `stk(sp)`, SP goes up by one modulo 1024 (R142; D4, D6). -/
def Obligations.PshEffect : Prop :=
  ∀ (rs : Reg) (s : State), stk s.cfg s.sp ∉ s.cfg.deviceMap →
    encode (.psh rs) = 0x7000 ||| atBit rs.number 0 ∧
    ∃ t, exec (.psh rs) s = .next t ∧ t.written? (stk s.cfg s.sp) = some (s.reg rs) ∧
      t.sp.toNat = (s.sp.toNat + 1) % 1024 ∧ Frame [] [stk s.cfg s.sp] s t ∧
      t.scr = s.scr ∧ t.pc = s.pc ∧ t.halted = s.halted

/-- `pll` at a slot that is no device: the byte at `stk(sp - 1)`, SP goes down by one modulo 1024, no flag, no byte changed
(R143; D4, D6). -/
def Obligations.PllEffect : Prop :=
  ∀ (rd : Reg) (s : State), stk s.cfg (s.sp - 1) ∉ s.cfg.deviceMap →
    encode (.pll rd) = 0x7800 ||| atBit rd.number 8 ∧
    ∃ t, exec (.pll rd) s = .next t ∧ t.reg rd = s.dataByte (stk s.cfg (s.sp - 1)) ∧
      t.sp.toNat = (s.sp.toNat + 1023) % 1024 ∧ Frame [rd] [] s t ∧
      t.scr = s.scr ∧ t.pc = s.pc ∧ t.halted = s.halted

/-- `stz` at an address that is no device (R144; D5). -/
def Obligations.StzEffect : Prop :=
  ∀ (off : Offset) (rs : Reg) (s : State), s.zAddr off ∉ s.cfg.deviceMap →
    encode (.stz off rs) = 0x8000 ||| atBit off 3 ||| atBit rs.number 0 ∧
    ∃ t, exec (.stz off rs) s = .next t ∧ t.written? (s.zAddr off) = some (s.reg rs) ∧
      Frame [] [s.zAddr off] s t ∧ t.scr = s.scr ∧ t.pc = s.pc ∧ t.sp = s.sp ∧ t.halted = s.halted

/-- `ldz` from an address that is no device, the address formed before `rd` is written (R145; D5). -/
def Obligations.LdzEffect : Prop :=
  ∀ (rd : Reg) (off : Offset) (s : State), s.zAddr off ∉ s.cfg.deviceMap →
    encode (.ldz rd off) = 0x8800 ||| atBit rd.number 8 ||| atBit off 3 ∧
    ∃ t, exec (.ldz rd off) s = .next t ∧ t.reg rd = s.dataByte (s.zAddr off) ∧
      Frame [rd] [] s t ∧ t.scr = s.scr ∧ t.pc = s.pc ∧ t.sp = s.sp ∧ t.halted = s.halted

/-- `st` at an address that is no device (the default map is empty): `MemWrite(pr : Address, 1, x[s])` and nothing else
(R146). -/
def Obligations.StEffect : Prop :=
  ∀ (addr : BitVec 8) (rs : Reg) (s : State), s.pr ++ addr ∉ s.cfg.deviceMap →
    encode (.st addr rs) = 0x9000 ||| atBit addr 3 ||| atBit rs.number 0 ∧
    ∃ t, exec (.st addr rs) s = .next t ∧ t.written? (s.pr ++ addr) = some (s.reg rs) ∧
      Frame [] [s.pr ++ addr] s t ∧ t.scr = s.scr ∧ t.pc = s.pc ∧ t.sp = s.sp ∧ t.halted = s.halted

/-- `ld` from an address that is no device (the default map is empty): `x[d] <- MemRead(pr : Address, 1)` and nothing else; the
byte written there last, if one has been (R147). -/
def Obligations.LdEffect : Prop :=
  ∀ (rd : Reg) (addr : BitVec 8) (s : State), s.pr ++ addr ∉ s.cfg.deviceMap →
    encode (.ld rd addr) = 0x9800 ||| atBit rd.number 8 ||| atBit addr 0 ∧
    ∃ t, exec (.ld rd addr) s = .next t ∧ t.reg rd = s.dataByte (s.pr ++ addr) ∧
      (∀ b, s.written? (s.pr ++ addr) = some b → t.reg rd = b) ∧
      Frame [rd] [] s t ∧ t.scr = s.scr ∧ t.pc = s.pc ∧ t.sp = s.sp ∧ t.halted = s.halted

/-- The effective addresses as numbers (R7, R55, R57, R58; D4, D5, D6): page times 256 plus the in-page sum modulo 256; the stack
base, a multiple of 1024, plus the slot, with no wrap. -/
def Obligations.EffectiveAddresses : Prop :=
  ∀ s : State,
    (∀ a8, (s.dpage a8).toNat = 256 * s.pr.toNat + a8.toNat) ∧
    (∀ off, (s.zAddr off).toNat / 256 = s.pr.toNat ∧
      (s.cfg.zoffSigned = false → (s.zAddr off).toNat % 256 = ((s.reg .r7).toNat + off.toNat) % 256) ∧
      (s.cfg.zoffSigned = true →
        ((s.zAddr off).toNat : Int) % 256 = ((s.reg .r7).toNat + off.toInt) % 256)) ∧
    (stackBase s.cfg).toNat = 1024 * s.cfg.stackQuarter.toNat ∧
    (∀ p, (stk s.cfg p).toNat = (stackBase s.cfg).toNat + p.toNat) ∧
    (∀ p q, stk s.cfg p = stk s.cfg q → p = q)

/-- Data memory is plain RAM: a read returns the byte written last to the address, and a write changes that byte and nothing
else, no other byte and no other field of the state (R53; D19). -/
def Obligations.StoreByteReadBack : Prop :=
  ∀ (s t : State) (a : DataAddr) (v : Byte), storeByte s a v = .next t →
    t.dataByte a = v ∧ (∀ b, b ≠ a → t.written? b = s.written? b ∧ t.dataByte b = s.dataByte b) ∧
      t = { s with dmem := t.dmem }

/-- Whatever runs between a `psh rA` and a `pll rB` that keeps the parameters, SP and the pushed byte, the pull copies the pushed
value and restores SP (R142, R143; D4, D6). -/
def Obligations.PushThenPull : Prop :=
  ∀ (ra rb : Reg) (s t u : State), exec (.psh ra) s = .next t → u.cfg = t.cfg → u.sp = t.sp →
    u.written? (stk s.cfg s.sp) = t.written? (stk s.cfg s.sp) →
    ∃ v, exec (.pll rb) u = .next v ∧ v.reg rb = s.reg ra ∧ v.sp = s.sp

/-- What a `st` or a `stz` stored at address `a` is read back by a later `ld` or `ldz` whose effective address is `a`, as long as
that byte and the parameters are kept (R53, R64, R144 to R147; D5, D18, D19). -/
def Obligations.StoreThenLoad : Prop :=
  ∀ (a : DataAddr) (rs rd : Reg) (s t u : State),
    (∃ a8, exec (.st a8 rs) s = .next t ∧ s.dpage a8 = a) ∨ (∃ off, exec (.stz off rs) s = .next t ∧ s.zAddr off = a) →
    u.cfg = t.cfg → u.written? a = t.written? a →
    (∀ a8, u.dpage a8 = a → ∃ v, exec (.ld rd a8) u = .next v ∧ v.reg rd = s.reg rs) ∧
    (∀ off, u.zAddr off = a → ∃ v, exec (.ldz rd off) u = .next v ∧ v.reg rd = s.reg rs)

/-! ### Control transfer -/

/-- `jpa` (R160): PC is the address, nothing else changes. -/
def Obligations.JpaEffect : Prop :=
  ∀ (target : ProgAddr) (s : State), encode (.jpa target) = 0xA800 ||| atBit target 0 ∧
    ∃ t, exec (.jpa target) s = .next t ∧ t.pc = target ∧ Frame [] [] s t ∧
      t.scr = s.scr ∧ t.sp = s.sp ∧ t.halted = s.halted

/-- `bra` fetched from A: PC is A plus `PC_REL_BASE` plus the signed offset modulo 2048, so A + 1 + Offset by default (R161, R162;
D2, D3, D4). -/
def Obligations.BraEffect : Prop :=
  ∀ (off : Offset) (s : State), encode (.bra off) = 0xB000 ||| atBit off 3 ∧
    ∃ t, exec (.bra off) s = .next t ∧
      (∀ a : ProgAddr, s.pc = a + 1 →
        (t.pc.toNat : Int) = ((a.toNat : Int) + s.cfg.pcRelBase.toNat + off.toInt) % 2048) ∧
      Frame [] [] s t ∧ t.scr = s.scr ∧ t.sp = s.sp ∧ t.halted = s.halted

/-- The condition table (R163), row by row, by the number in the Cond field and the S field. -/
def Obligations.ConditionTable : Prop :=
  ∀ x : Scr,
    (∀ sf, (condTrue x sf (Cond.ofCode 0b000) = true ↔ x.c = true) ∧
      (condTrue x sf (Cond.ofCode 0b001) = true ↔ x.v = true) ∧
      (condTrue x sf (Cond.ofCode 0b010) = true ↔ x.n = true) ∧
      (condTrue x sf (Cond.ofCode 0b011) = true ↔ x.s = true) ∧
      (condTrue x sf (Cond.ofCode 0b100) = true ↔ x.z = true) ∧
      (condTrue x sf (Cond.ofCode 0b101) = true ↔ x.z = true)) ∧
    (condTrue x false (Cond.ofCode 0b110) = true ↔ x.c = true) ∧
    (condTrue x false (Cond.ofCode 0b111) = true ↔ x.c = false ∧ x.z = false) ∧
    (condTrue x true (Cond.ofCode 0b110) = true ↔ x.s = true) ∧
    (condTrue x true (Cond.ofCode 0b111) = true ↔ x.s = false ∧ x.z = false)

/-- `brs` jumps to the relative target when the condition is true, `brc` when it is false; otherwise PC stays A + 1; nothing else
changes (R164, R167; the target's base and wrap are D2, D3, D4). -/
def Obligations.ConditionalBranchEffects : Prop :=
  ∀ (sf : Bool) (off : Offset) (cc : Cond) (s : State),
    (encode (.brs sf off cc) = 0xB800 ||| atBit (BitVec.ofBool sf) 10 ||| atBit off 3 ||| atBit cc.code 0 ∧
      encode (.brc sf off cc) = 0xC000 ||| atBit (BitVec.ofBool sf) 10 ||| atBit off 3 ||| atBit cc.code 0) ∧
    ∃ t u, exec (.brs sf off cc) s = .next t ∧ exec (.brc sf off cc) s = .next u ∧
      (∀ a : ProgAddr, s.pc = a + 1 →
        let target := ((a.toNat : Int) + s.cfg.pcRelBase.toNat + off.toInt) % 2048
        (condTrue s.scr sf cc = true → (t.pc.toNat : Int) = target ∧ u.pc = a + 1) ∧
        (condTrue s.scr sf cc = false → t.pc = a + 1 ∧ (u.pc.toNat : Int) = target)) ∧
      Frame [] [] s t ∧ t.scr = s.scr ∧ t.sp = s.sp ∧ t.halted = s.halted ∧
      Frame [] [] s u ∧ u.scr = s.scr ∧ u.sp = s.sp ∧ u.halted = s.halted

/-- `call` at two slots that are no devices: A + 1 in two bytes, low byte first unless `RET_LOW_FIRST` is false, SP up by two, PC
the address (R165, R59; D2, D4, D6, D7). -/
def Obligations.CallEffect : Prop :=
  ∀ (target : ProgAddr) (s : State),
    stk s.cfg s.sp ∉ s.cfg.deviceMap → stk s.cfg (s.sp + 1) ∉ s.cfg.deviceMap →
    encode (.call target) = 0xC800 ||| atBit target 0 ∧
    ∃ t, exec (.call target) s = .next t ∧
      (let low := BitVec.ofNat 8 (s.pc.toNat % 256)
       let high := BitVec.ofNat 8 (s.pc.toNat / 256)
       t.written? (stk s.cfg s.sp) = some (if s.cfg.retLowFirst then low else high) ∧
        t.written? (stk s.cfg (s.sp + 1)) = some (if s.cfg.retLowFirst then high else low)) ∧
      t.sp.toNat = (s.sp.toNat + 2) % 1024 ∧ t.pc = target ∧
      Frame [] [stk s.cfg s.sp, stk s.cfg (s.sp + 1)] s t ∧ t.scr = s.scr ∧ t.halted = s.halted

/-- `ret` from two slots that are no devices: PC from the two bytes, bits 7:3 of the high one ignored, SP down by two, no byte
changed (R166, R59; D4, D6, D7). -/
def Obligations.RetEffect : Prop :=
  ∀ s : State, stk s.cfg (s.sp - 2) ∉ s.cfg.deviceMap → stk s.cfg (s.sp - 1) ∉ s.cfg.deviceMap →
    encode .ret = 0xD000 ∧
    ∃ t, exec .ret s = .next t ∧
      (let first := (s.dataByte (stk s.cfg (s.sp - 2))).toNat
       let second := (s.dataByte (stk s.cfg (s.sp - 1))).toNat
       t.pc.toNat = if s.cfg.retLowFirst then 256 * (second % 8) + first else 256 * (first % 8) + second) ∧
      t.sp.toNat = (s.sp.toNat + 1022) % 1024 ∧ Frame [] [] s t ∧ t.scr = s.scr ∧ t.halted = s.halted

/-- A subroutine that keeps the parameters, its entry SP and its two return-address bytes returns to the instruction after the
`call` with the caller's SP, for every SP, wrap included, and for both byte orders (R165, R166; D2, D6, D7). -/
def Obligations.CallReturns : Prop :=
  ∀ (target : ProgAddr) (s t u : State), exec (.call target) s = .next t → u.cfg = t.cfg → u.sp = t.sp →
    u.written? (stk s.cfg s.sp) = t.written? (stk s.cfg s.sp) →
    u.written? (stk s.cfg (s.sp + 1)) = t.written? (stk s.cfg (s.sp + 1)) →
    ∃ v, exec .ret u = .next v ∧ v.pc = s.pc ∧ v.sp = s.sp

/-! ### System -/

/-- `nop` (R180): the all-zero word; nothing beyond the fetch's step of PC (D2, D4); a pending page write still happens in the
step that executes it (R36; D13). That the page write also closes the window is about the mark `State.window`, which is the
model's and not the spec's (DEDUCED, log 17). -/
def Obligations.NopEffect : Prop :=
  encode .nop = 0x0000 ∧ (∀ s : State, exec .nop s = .next s) ∧
  ∀ s : State, s.halted = false → s.progWord? s.pc = some 0x0000 →
    step s = .next { s with
      ir := 0x0000, pc := s.pc + 1
      pr := if s.scr.p then (s.reg .r6).extractLsb' 0 4 else s.pr
      scr := { s.scr with p := false }
      window := s.window && !s.scr.p }

/-- The free opcodes execute as `nop` (R181, R182; D21). -/
def Obligations.FreeOpcodesAreNops : Prop :=
  encode .res2 = 0xE800 ∧ encode .res3 = 0xF000 ∧ ∀ s : State, exec .res2 s = .next s ∧ exec .res3 s = .next s

/-- `lcr`: bits 5 to 0 of the destination are P Z S N V C, bits 7:6 are open; SCR is not changed by being read (R184; D14, U6). -/
def Obligations.LcrEffect : Prop :=
  ∀ (rd : Reg) (s : State), encode (.lcr rd) = 0xD800 ||| atBit rd.number 8 ∧
    ∃ t, exec (.lcr rd) s = .next t ∧
      (t.reg rd).getLsbD 0 = s.scr.c ∧ (t.reg rd).getLsbD 1 = s.scr.v ∧ (t.reg rd).getLsbD 2 = s.scr.n ∧
      (t.reg rd).getLsbD 3 = s.scr.s ∧ (t.reg rd).getLsbD 4 = s.scr.z ∧ (t.reg rd).getLsbD 5 = s.scr.p ∧
      Frame [rd] [] s t ∧ t.scr = s.scr ∧ t.pc = s.pc ∧ t.sp = s.sp ∧ t.halted = s.halted

/-- `stcr`: bit 5 of the source to P, which opens or closes the window of R227; the five status bits and everything else kept
(R185; D13, D14; log 17). -/
def Obligations.StcrEffect : Prop :=
  ∀ (rs : Reg) (s : State), encode (.stcr rs) = 0xE000 ||| atBit rs.number 0 ∧
    exec (.stcr rs) s = .next
      { s with scr := { s.scr with p := (s.reg rs).getLsbD 5 }, window := (s.reg rs).getLsbD 5 }

/-- `hlt`: the machine is halted, nothing else changes, and every later step is the stuck state (R186; D17; log 11). -/
def Obligations.HltEffect : Prop :=
  encode .hlt = 0xF800 ∧
  ∀ s : State, ∃ t, exec .hlt s = .next t ∧ t.halted = true ∧ step t = .fault .halted ∧
    Frame [] [] s t ∧ t.scr = s.scr ∧ t.pc = s.pc ∧ t.sp = s.sp

/-! ### Rules of the whole machine -/

/-- PR is changed by no instruction, and by a step only when a page write is pending (R37). -/
def Obligations.OnlyPageWriteChangesPage : Prop :=
  (∀ (i : Instr) (s t : State), exec i s = .next t → t.pr = s.pr) ∧
  (∀ s t : State, step s = .next t → s.scr.p = false → t.pr = s.pr)

/-- The status bits are read-only to software (R31): `stcr` leaves them unchanged whatever its source holds, and no instruction
but the flag-writing ones changes any of them. Which those are, the twelve of `writesStatus`, is R33's, decision D8 of the spec
(log 16). -/
def Obligations.StatusBitsWriteProtected : Prop :=
  (∀ (rs : Reg) (s t : State), exec (.stcr rs) s = .next t → SameStatus s.scr t.scr) ∧
  (∀ (i : Instr) (s t : State), writesStatus i = false → exec i s = .next t → SameStatus s.scr t.scr)

/-- P is set by `stcr` alone: every other instruction keeps it, and a step that runs neither `stcr` nor `hlt` leaves P = 0
(R34, R36; D13). -/
def Obligations.OnlyStcrSetsP : Prop :=
  (∀ (i : Instr) (s t : State), writesP i = false → exec i s = .next t → t.scr.p = s.scr.p) ∧
  (∀ (s t : State) (w : Word), s.progWord? s.pc = some w → writesP (decode w) = false → decode w ≠ .hlt →
    step s = .next t → t.scr.p = false)

/-- Each instruction changes at most the general register its Rd field names (R22, R25, R110). -/
def Obligations.OnlyDestinationChanges : Prop :=
  ∀ (i : Instr) (s t : State) (r : Reg), exec i s = .next t → destReg i ≠ some r → t.reg r = s.reg r

/-- Each instruction changes no data byte outside the addresses R149 gives it, and stores to no device (R52, R53, R149; D5, D6,
D19). -/
def Obligations.OnlyStoreAddressesChange : Prop :=
  ∀ (i : Instr) (s t : State) (a : DataAddr), exec i s = .next t →
    a ∉ storeAddrs i s ∨ a ∈ s.cfg.deviceMap → t.written? a = s.written? a ∧ t.dataByte a = s.dataByte a

/-- SP moves by what the instruction says and no other way: `psh` +1, `pll` -1, `call` +2, `ret` -2, all others 0 (R25, R38, R224;
D4). -/
def Obligations.StackPointerMoves : Prop :=
  ∀ (s t : State) (w : Word), s.progWord? s.pc = some w → step s = .next t → t.sp = s.sp + spChange (decode w)

/-- A step of an instruction that does not write PC ends at A + 1, modulo 2048 (R27, R28; D2, D4). -/
def Obligations.SequentialFlow : Prop :=
  ∀ (s t : State) (w : Word), s.progWord? s.pc = some w → step s = .next t → writesPc (decode w) = false →
    t.pc.toNat = (s.pc.toNat + 1) % 2048

/-- No step changes program memory or a parameter, and a step is halted afterwards only by `hlt` (R39, R51, R67; D17, D19). -/
def Obligations.ProgramAndParametersFixed : Prop :=
  ∀ s t : State, step s = .next t → t.pmem = s.pmem ∧ t.cfg = s.cfg ∧
    (t.halted = true → ∃ w, s.progWord? s.pc = some w ∧ decode w = .hlt)

/-- IR cannot be observed: a step does not depend on what IR held (R29; D25). -/
def Obligations.InstructionRegisterUnobservable : Prop := ∀ (s : State) (w : Word), step { s with ir := w } = step s

/-- Instructions complete: one stops only at a device address it loads from or stores to (R89, R200, R201; D16, D19). -/
def Obligations.InstructionsComplete : Prop :=
  ∀ (i : Instr) (s : State),
    (∀ a ∈ storeAddrs i s ++ loadAddrs i s, a ∉ s.cfg.deviceMap) → ∃ t, exec i s = .next t

/-- An access to an address in `DMEM_DEVICE_MAP` is refused, the first such access of the instruction by name (R53, U15; D19;
log 10). -/
def Obligations.DeviceAccessRefused : Prop :=
  ∀ (s : State) (rd rs : Reg) (off : Offset) (a8 : BitVec 8) (target : ProgAddr),
    (stk s.cfg s.sp ∈ s.cfg.deviceMap → exec (.psh rs) s = .refused (.dataDevice (stk s.cfg s.sp)) ∧
      exec (.call target) s = .refused (.dataDevice (stk s.cfg s.sp))) ∧
    (stk s.cfg s.sp ∉ s.cfg.deviceMap → stk s.cfg (s.sp + 1) ∈ s.cfg.deviceMap →
      exec (.call target) s = .refused (.dataDevice (stk s.cfg (s.sp + 1)))) ∧
    (stk s.cfg (s.sp - 1) ∈ s.cfg.deviceMap → exec (.pll rd) s = .refused (.dataDevice (stk s.cfg (s.sp - 1)))) ∧
    (stk s.cfg (s.sp - 2) ∈ s.cfg.deviceMap → exec .ret s = .refused (.dataDevice (stk s.cfg (s.sp - 2)))) ∧
    (stk s.cfg (s.sp - 2) ∉ s.cfg.deviceMap → stk s.cfg (s.sp - 1) ∈ s.cfg.deviceMap →
      exec .ret s = .refused (.dataDevice (stk s.cfg (s.sp - 1)))) ∧
    (s.zAddr off ∈ s.cfg.deviceMap → exec (.stz off rs) s = .refused (.dataDevice (s.zAddr off)) ∧
      exec (.ldz rd off) s = .refused (.dataDevice (s.zAddr off))) ∧
    (s.dpage a8 ∈ s.cfg.deviceMap → exec (.st a8 rs) s = .refused (.dataDevice (s.dpage a8)) ∧
      exec (.ld rd a8) s = .refused (.dataDevice (s.dpage a8)))

/-- No step traps: with no device in data memory, every step of a machine that is not halted, at a placed word, answers a next
state, in the page-write window too (R89, R200, R201; D16). -/
def Obligations.EveryStepCompletes : Prop :=
  ∀ (s : State) (w : Word), s.halted = false → s.progWord? s.pc = some w → s.cfg.deviceMap = [] →
    ∃ t, step s = .next t

/-- Every step keeps the invariant: memories canonical and inside their spaces, S = N xor V, Z only with N = 0, the window of R227
open only while P = 1 (R32, R36, R50; D12; log 14, log 17). -/
def Obligations.StepKeepsInvariant : Prop := ∀ s t : State, s.Inv → step s = .next t → t.Inv

/-- Reset meets the invariant, and so does every reset with status bits that agree with S = N xor V and with Z only at N = 0. The
first clause rests on the default RESET_SCR = 0, the second names S = N xor V: the spec's choices D15 (log 8) and D12. -/
def Obligations.ResetMeetsInvariant : Prop :=
  State.reset.Inv ∧
  ∀ (rv : Config.ResetValues) (cfg : Config.Params),
    rv.scr.getLsbD 3 = (rv.scr.getLsbD 2 ^^ rv.scr.getLsbD 1) → (rv.scr.getLsbD 4 = true → rv.scr.getLsbD 2 = false) →
    (State.resetWith rv cfg).Inv

/-- Reset (R41, R220, R221; D15; log 8): PC, SP, SCR bits 5:0 and PR are the named parameters, 0 by default; not halted. The
rest is the model's form of what R41 leaves to the environment or unspecified: no program word placed, since the image is
loaded from outside (log 13), no data byte written (D23, log 5), and no window open, since no `stcr` has run (log 17). -/
def Obligations.ResetValuesOfSpec : Prop :=
  (∀ (rv : Config.ResetValues) (cfg : Config.Params),
    let s := State.resetWith rv cfg
    s.pc = rv.pc ∧ s.sp = rv.sp ∧ s.scr.bits = rv.scr ∧ s.pr = rv.pr ∧ s.window = false ∧ s.halted = false ∧ s.cfg = cfg ∧
      (∀ a, s.progWord? a = none) ∧ (∀ a, s.written? a = none)) ∧
  State.reset.pc = 0x000 ∧ State.reset.sp = 0x000 ∧ State.reset.scr.bits = 0 ∧ State.reset.pr = 0x0
end

