-- ==== Sys2Proof/Laws/Encode.lean ====
section
/-! SUPPORT. The bits of an encoded word, layout by layout, and the number and code tables read back. -/

namespace Sys2Proof

@[simp] theorem Reg.ofNumber_number (r : Reg) : Reg.ofNumber r.number = r := by cases r <;> rfl

@[simp] theorem Reg.number_ofNumber (n : BitVec 3) : (Reg.ofNumber n).number = n := by
  revert n; decide

@[simp] theorem Cond.ofCode_code (cc : Cond) : Cond.ofCode cc.code = cc := by cases cc <;> rfl

@[simp] theorem Cond.code_ofCode (n : BitVec 3) : (Cond.ofCode n).code = n := by
  revert n; decide

/-- Bit `k` of a concatenation of known width `w`. -/
theorem getLsbD_join {n m w : Nat} (h : n + m = w) (x : BitVec n) (y : BitVec m) (k : Nat) :
    ((x ++ y).cast h).getLsbD k = if k < m then y.getLsbD k else x.getLsbD (k - m) := by
  subst h
  simp only [BitVec.cast_eq, BitVec.getLsbD_append]

/-- Bit `k` of a word of three fields. -/
theorem getLsbD_join3 {n m l w : Nat} (h : n + m + l = w) (x : BitVec n) (y : BitVec m) (z : BitVec l) (k : Nat) :
    ((x ++ y ++ z).cast h).getLsbD k =
      if k < l then z.getLsbD k else if k - l < m then y.getLsbD (k - l) else x.getLsbD (k - l - m) := by
  subst h
  simp only [BitVec.cast_eq, BitVec.getLsbD_append]

/-- Bit `k` of a word of four fields. -/
theorem getLsbD_join4 {n m l j w : Nat} (h : n + m + l + j = w) (x : BitVec n) (y : BitVec m) (z : BitVec l)
    (u : BitVec j) (k : Nat) :
    ((x ++ y ++ z ++ u).cast h).getLsbD k =
      if k < j then u.getLsbD k
      else if k - j < l then z.getLsbD (k - j)
      else if k - j - l < m then y.getLsbD (k - j - l) else x.getLsbD (k - j - l - m) := by
  subst h
  simp only [BitVec.cast_eq, BitVec.getLsbD_append]

theorem layoutRR_bit (op : BitVec 5) (rd rs : Reg) (k : Nat) :
    (layoutRR op rd rs).getLsbD k =
      if k < 3 then rs.number.getLsbD k
      else if k - 3 < 5 then (0#5).getLsbD (k - 3)
      else if k - 3 - 5 < 3 then rd.number.getLsbD (k - 3 - 5) else op.getLsbD (k - 3 - 5 - 3) :=
  getLsbD_join4 rfl op rd.number 0#5 rs.number k

theorem layoutRD_bit (op : BitVec 5) (rd : Reg) (k : Nat) :
    (layoutRD op rd).getLsbD k =
      if k < 8 then (0#8).getLsbD k
      else if k - 8 < 3 then rd.number.getLsbD (k - 8) else op.getLsbD (k - 8 - 3) :=
  getLsbD_join3 rfl op rd.number 0#8 k

theorem layoutRS_bit (op : BitVec 5) (rs : Reg) (k : Nat) :
    (layoutRS op rs).getLsbD k =
      if k < 3 then rs.number.getLsbD k
      else if k - 3 < 8 then (0#8).getLsbD (k - 3) else op.getLsbD (k - 3 - 8) :=
  getLsbD_join3 rfl op 0#8 rs.number k

theorem layoutNone_bit (op : BitVec 5) (k : Nat) :
    (layoutNone op).getLsbD k = if k < 11 then (0#11).getLsbD k else op.getLsbD (k - 11) :=
  getLsbD_join rfl op 0#11 k

theorem layoutLD_bit (op : BitVec 5) (rd : Reg) (b : BitVec 8) (k : Nat) :
    (layoutLD op rd b).getLsbD k =
      if k < 8 then b.getLsbD k
      else if k - 8 < 3 then rd.number.getLsbD (k - 8) else op.getLsbD (k - 8 - 3) :=
  getLsbD_join3 rfl op rd.number b k

theorem layoutJ_bit (op : BitVec 5) (a : ProgAddr) (k : Nat) :
    (layoutJ op a).getLsbD k = if k < 11 then a.getLsbD k else op.getLsbD (k - 11) :=
  getLsbD_join rfl op a k

theorem layoutBRC_bit (op : BitVec 5) (sf : Bool) (off : Offset) (cc : Cond) (k : Nat) :
    (layoutBRC op sf off cc).getLsbD k =
      if k < 3 then cc.code.getLsbD k
      else if k - 3 < 5 then off.getLsbD (k - 3)
      else if k - 3 - 5 < 2 then (0#2).getLsbD (k - 3 - 5)
      else if k - 3 - 5 - 2 < 1 then (BitVec.ofBool sf).getLsbD (k - 3 - 5 - 2)
      else op.getLsbD (k - 3 - 5 - 2 - 1) := by
  refine (getLsbD_join4 (w := 16) rfl (op ++ BitVec.ofBool sf) 0#2 off cc.code k).trans ?_
  split <;> [rfl; split <;> [rfl; split <;> [rfl; exact getLsbD_join (w := 6) rfl op _ _]]]

theorem encodeStz_bit (off : Offset) (rs : Reg) (k : Nat) :
    (encode (.stz off rs)).getLsbD k =
      if k < 3 then rs.number.getLsbD k
      else if k - 3 < 5 then off.getLsbD (k - 3)
      else if k - 3 - 5 < 3 then (0#3).getLsbD (k - 3 - 5) else (0b10000#5).getLsbD (k - 3 - 5 - 3) :=
  getLsbD_join4 rfl 0b10000#5 0#3 off rs.number k

theorem encodeLdz_bit (rd : Reg) (off : Offset) (k : Nat) :
    (encode (.ldz rd off)).getLsbD k =
      if k < 3 then (0#3).getLsbD k
      else if k - 3 < 5 then off.getLsbD (k - 3)
      else if k - 3 - 5 < 3 then rd.number.getLsbD (k - 3 - 5) else (0b10001#5).getLsbD (k - 3 - 5 - 3) :=
  getLsbD_join4 rfl 0b10001#5 rd.number off 0#3 k

theorem encodeSt_bit (addr : BitVec 8) (rs : Reg) (k : Nat) :
    (encode (.st addr rs)).getLsbD k =
      if k < 3 then rs.number.getLsbD k
      else if k - 3 < 8 then addr.getLsbD (k - 3) else (0b10010#5).getLsbD (k - 3 - 8) :=
  getLsbD_join3 rfl 0b10010#5 addr rs.number k

theorem encodeBra_bit (off : Offset) (k : Nat) :
    (encode (.bra off)).getLsbD k =
      if k < 3 then (0#3).getLsbD k
      else if k - 3 < 5 then off.getLsbD (k - 3)
      else if k - 3 - 5 < 3 then (0#3).getLsbD (k - 3 - 5) else (0b10110#5).getLsbD (k - 3 - 5 - 3) :=
  getLsbD_join4 rfl 0b10110#5 0#3 off 0#3 k

end Sys2Proof
end

