-- ==== Sys2Proof/Laws/State.lean ====
section
/-! SUPPORT. One lemma per field per update of `State`, and what the accessors `reg`, `written?`, `dataByte`, `progWord?` read after each update. -/

namespace Sys2Proof.Machine

/-! ### `State.setReg` -/

@[simp] theorem State.setReg_regs (s : State) (r : Reg) (v : Byte) : (s.setReg r v).regs = s.regs.set r v := rfl
@[simp] theorem State.setReg_pc (s : State) (r : Reg) (v : Byte) : (s.setReg r v).pc = s.pc := rfl
@[simp] theorem State.setReg_ir (s : State) (r : Reg) (v : Byte) : (s.setReg r v).ir = s.ir := rfl
@[simp] theorem State.setReg_scr (s : State) (r : Reg) (v : Byte) : (s.setReg r v).scr = s.scr := rfl
@[simp] theorem State.setReg_sp (s : State) (r : Reg) (v : Byte) : (s.setReg r v).sp = s.sp := rfl
@[simp] theorem State.setReg_pr (s : State) (r : Reg) (v : Byte) : (s.setReg r v).pr = s.pr := rfl
@[simp] theorem State.setReg_window (s : State) (r : Reg) (v : Byte) : (s.setReg r v).window = s.window := rfl
@[simp] theorem State.setReg_halted (s : State) (r : Reg) (v : Byte) : (s.setReg r v).halted = s.halted := rfl
@[simp] theorem State.setReg_pmem (s : State) (r : Reg) (v : Byte) : (s.setReg r v).pmem = s.pmem := rfl
@[simp] theorem State.setReg_dmem (s : State) (r : Reg) (v : Byte) : (s.setReg r v).dmem = s.dmem := rfl
@[simp] theorem State.setReg_draws (s : State) (r : Reg) (v : Byte) : (s.setReg r v).draws = s.draws := rfl
@[simp] theorem State.setReg_cfg (s : State) (r : Reg) (v : Byte) : (s.setReg r v).cfg = s.cfg := rfl
@[simp] theorem State.setReg_written? (s : State) (r : Reg) (v : Byte) (d : DataAddr) : (s.setReg r v).written? d = s.written? d := rfl
@[simp] theorem State.setReg_dataByte (s : State) (r : Reg) (v : Byte) (d : DataAddr) : (s.setReg r v).dataByte d = s.dataByte d := rfl
@[simp] theorem State.setReg_progWord? (s : State) (r : Reg) (v : Byte) (d : ProgAddr) : (s.setReg r v).progWord? d = s.progWord? d := rfl

/-! ### `State.setPc` -/

@[simp] theorem State.setPc_regs (s : State) (a : ProgAddr) : (s.setPc a).regs = s.regs := rfl
@[simp] theorem State.setPc_pc (s : State) (a : ProgAddr) : (s.setPc a).pc = a := rfl
@[simp] theorem State.setPc_ir (s : State) (a : ProgAddr) : (s.setPc a).ir = s.ir := rfl
@[simp] theorem State.setPc_scr (s : State) (a : ProgAddr) : (s.setPc a).scr = s.scr := rfl
@[simp] theorem State.setPc_sp (s : State) (a : ProgAddr) : (s.setPc a).sp = s.sp := rfl
@[simp] theorem State.setPc_pr (s : State) (a : ProgAddr) : (s.setPc a).pr = s.pr := rfl
@[simp] theorem State.setPc_window (s : State) (a : ProgAddr) : (s.setPc a).window = s.window := rfl
@[simp] theorem State.setPc_halted (s : State) (a : ProgAddr) : (s.setPc a).halted = s.halted := rfl
@[simp] theorem State.setPc_pmem (s : State) (a : ProgAddr) : (s.setPc a).pmem = s.pmem := rfl
@[simp] theorem State.setPc_dmem (s : State) (a : ProgAddr) : (s.setPc a).dmem = s.dmem := rfl
@[simp] theorem State.setPc_draws (s : State) (a : ProgAddr) : (s.setPc a).draws = s.draws := rfl
@[simp] theorem State.setPc_cfg (s : State) (a : ProgAddr) : (s.setPc a).cfg = s.cfg := rfl
@[simp] theorem State.setPc_reg (s : State) (a : ProgAddr) (q : Reg) : (s.setPc a).reg q = s.reg q := rfl
@[simp] theorem State.setPc_written? (s : State) (a : ProgAddr) (d : DataAddr) : (s.setPc a).written? d = s.written? d := rfl
@[simp] theorem State.setPc_dataByte (s : State) (a : ProgAddr) (d : DataAddr) : (s.setPc a).dataByte d = s.dataByte d := rfl
@[simp] theorem State.setPc_progWord? (s : State) (a : ProgAddr) (d : ProgAddr) : (s.setPc a).progWord? d = s.progWord? d := rfl

/-! ### `State.setIr` -/

@[simp] theorem State.setIr_regs (s : State) (w : Word) : (s.setIr w).regs = s.regs := rfl
@[simp] theorem State.setIr_pc (s : State) (w : Word) : (s.setIr w).pc = s.pc := rfl
@[simp] theorem State.setIr_ir (s : State) (w : Word) : (s.setIr w).ir = w := rfl
@[simp] theorem State.setIr_scr (s : State) (w : Word) : (s.setIr w).scr = s.scr := rfl
@[simp] theorem State.setIr_sp (s : State) (w : Word) : (s.setIr w).sp = s.sp := rfl
@[simp] theorem State.setIr_pr (s : State) (w : Word) : (s.setIr w).pr = s.pr := rfl
@[simp] theorem State.setIr_window (s : State) (w : Word) : (s.setIr w).window = s.window := rfl
@[simp] theorem State.setIr_halted (s : State) (w : Word) : (s.setIr w).halted = s.halted := rfl
@[simp] theorem State.setIr_pmem (s : State) (w : Word) : (s.setIr w).pmem = s.pmem := rfl
@[simp] theorem State.setIr_dmem (s : State) (w : Word) : (s.setIr w).dmem = s.dmem := rfl
@[simp] theorem State.setIr_draws (s : State) (w : Word) : (s.setIr w).draws = s.draws := rfl
@[simp] theorem State.setIr_cfg (s : State) (w : Word) : (s.setIr w).cfg = s.cfg := rfl
@[simp] theorem State.setIr_reg (s : State) (w : Word) (q : Reg) : (s.setIr w).reg q = s.reg q := rfl
@[simp] theorem State.setIr_written? (s : State) (w : Word) (d : DataAddr) : (s.setIr w).written? d = s.written? d := rfl
@[simp] theorem State.setIr_dataByte (s : State) (w : Word) (d : DataAddr) : (s.setIr w).dataByte d = s.dataByte d := rfl
@[simp] theorem State.setIr_progWord? (s : State) (w : Word) (d : ProgAddr) : (s.setIr w).progWord? d = s.progWord? d := rfl

/-! ### `State.setScr` -/

@[simp] theorem State.setScr_regs (s : State) (x : Scr) : (s.setScr x).regs = s.regs := rfl
@[simp] theorem State.setScr_pc (s : State) (x : Scr) : (s.setScr x).pc = s.pc := rfl
@[simp] theorem State.setScr_ir (s : State) (x : Scr) : (s.setScr x).ir = s.ir := rfl
@[simp] theorem State.setScr_scr (s : State) (x : Scr) : (s.setScr x).scr = x := rfl
@[simp] theorem State.setScr_sp (s : State) (x : Scr) : (s.setScr x).sp = s.sp := rfl
@[simp] theorem State.setScr_pr (s : State) (x : Scr) : (s.setScr x).pr = s.pr := rfl
@[simp] theorem State.setScr_window (s : State) (x : Scr) : (s.setScr x).window = s.window := rfl
@[simp] theorem State.setScr_halted (s : State) (x : Scr) : (s.setScr x).halted = s.halted := rfl
@[simp] theorem State.setScr_pmem (s : State) (x : Scr) : (s.setScr x).pmem = s.pmem := rfl
@[simp] theorem State.setScr_dmem (s : State) (x : Scr) : (s.setScr x).dmem = s.dmem := rfl
@[simp] theorem State.setScr_draws (s : State) (x : Scr) : (s.setScr x).draws = s.draws := rfl
@[simp] theorem State.setScr_cfg (s : State) (x : Scr) : (s.setScr x).cfg = s.cfg := rfl
@[simp] theorem State.setScr_reg (s : State) (x : Scr) (q : Reg) : (s.setScr x).reg q = s.reg q := rfl
@[simp] theorem State.setScr_written? (s : State) (x : Scr) (d : DataAddr) : (s.setScr x).written? d = s.written? d := rfl
@[simp] theorem State.setScr_dataByte (s : State) (x : Scr) (d : DataAddr) : (s.setScr x).dataByte d = s.dataByte d := rfl
@[simp] theorem State.setScr_progWord? (s : State) (x : Scr) (d : ProgAddr) : (s.setScr x).progWord? d = s.progWord? d := rfl

/-! ### `State.setP` -/

@[simp] theorem State.setP_regs (s : State) (b : Bool) : (s.setP b).regs = s.regs := rfl
@[simp] theorem State.setP_pc (s : State) (b : Bool) : (s.setP b).pc = s.pc := rfl
@[simp] theorem State.setP_ir (s : State) (b : Bool) : (s.setP b).ir = s.ir := rfl
@[simp] theorem State.setP_scr (s : State) (b : Bool) : (s.setP b).scr = { s.scr with p := b } := rfl
@[simp] theorem State.setP_sp (s : State) (b : Bool) : (s.setP b).sp = s.sp := rfl
@[simp] theorem State.setP_pr (s : State) (b : Bool) : (s.setP b).pr = s.pr := rfl
@[simp] theorem State.setP_window (s : State) (b : Bool) : (s.setP b).window = b := rfl
@[simp] theorem State.setP_halted (s : State) (b : Bool) : (s.setP b).halted = s.halted := rfl
@[simp] theorem State.setP_pmem (s : State) (b : Bool) : (s.setP b).pmem = s.pmem := rfl
@[simp] theorem State.setP_dmem (s : State) (b : Bool) : (s.setP b).dmem = s.dmem := rfl
@[simp] theorem State.setP_draws (s : State) (b : Bool) : (s.setP b).draws = s.draws := rfl
@[simp] theorem State.setP_cfg (s : State) (b : Bool) : (s.setP b).cfg = s.cfg := rfl
@[simp] theorem State.setP_reg (s : State) (b : Bool) (q : Reg) : (s.setP b).reg q = s.reg q := rfl
@[simp] theorem State.setP_written? (s : State) (b : Bool) (d : DataAddr) : (s.setP b).written? d = s.written? d := rfl
@[simp] theorem State.setP_dataByte (s : State) (b : Bool) (d : DataAddr) : (s.setP b).dataByte d = s.dataByte d := rfl
@[simp] theorem State.setP_progWord? (s : State) (b : Bool) (d : ProgAddr) : (s.setP b).progWord? d = s.progWord? d := rfl

/-! ### `State.setSp` -/

@[simp] theorem State.setSp_regs (s : State) (p : StackPtr) : (s.setSp p).regs = s.regs := rfl
@[simp] theorem State.setSp_pc (s : State) (p : StackPtr) : (s.setSp p).pc = s.pc := rfl
@[simp] theorem State.setSp_ir (s : State) (p : StackPtr) : (s.setSp p).ir = s.ir := rfl
@[simp] theorem State.setSp_scr (s : State) (p : StackPtr) : (s.setSp p).scr = s.scr := rfl
@[simp] theorem State.setSp_sp (s : State) (p : StackPtr) : (s.setSp p).sp = p := rfl
@[simp] theorem State.setSp_pr (s : State) (p : StackPtr) : (s.setSp p).pr = s.pr := rfl
@[simp] theorem State.setSp_window (s : State) (p : StackPtr) : (s.setSp p).window = s.window := rfl
@[simp] theorem State.setSp_halted (s : State) (p : StackPtr) : (s.setSp p).halted = s.halted := rfl
@[simp] theorem State.setSp_pmem (s : State) (p : StackPtr) : (s.setSp p).pmem = s.pmem := rfl
@[simp] theorem State.setSp_dmem (s : State) (p : StackPtr) : (s.setSp p).dmem = s.dmem := rfl
@[simp] theorem State.setSp_draws (s : State) (p : StackPtr) : (s.setSp p).draws = s.draws := rfl
@[simp] theorem State.setSp_cfg (s : State) (p : StackPtr) : (s.setSp p).cfg = s.cfg := rfl
@[simp] theorem State.setSp_reg (s : State) (p : StackPtr) (q : Reg) : (s.setSp p).reg q = s.reg q := rfl
@[simp] theorem State.setSp_written? (s : State) (p : StackPtr) (d : DataAddr) : (s.setSp p).written? d = s.written? d := rfl
@[simp] theorem State.setSp_dataByte (s : State) (p : StackPtr) (d : DataAddr) : (s.setSp p).dataByte d = s.dataByte d := rfl
@[simp] theorem State.setSp_progWord? (s : State) (p : StackPtr) (d : ProgAddr) : (s.setSp p).progWord? d = s.progWord? d := rfl

/-! ### `State.setPr` -/

@[simp] theorem State.setPr_regs (s : State) (p : Page) : (s.setPr p).regs = s.regs := rfl
@[simp] theorem State.setPr_pc (s : State) (p : Page) : (s.setPr p).pc = s.pc := rfl
@[simp] theorem State.setPr_ir (s : State) (p : Page) : (s.setPr p).ir = s.ir := rfl
@[simp] theorem State.setPr_scr (s : State) (p : Page) : (s.setPr p).scr = s.scr := rfl
@[simp] theorem State.setPr_sp (s : State) (p : Page) : (s.setPr p).sp = s.sp := rfl
@[simp] theorem State.setPr_pr (s : State) (p : Page) : (s.setPr p).pr = p := rfl
@[simp] theorem State.setPr_window (s : State) (p : Page) : (s.setPr p).window = s.window := rfl
@[simp] theorem State.setPr_halted (s : State) (p : Page) : (s.setPr p).halted = s.halted := rfl
@[simp] theorem State.setPr_pmem (s : State) (p : Page) : (s.setPr p).pmem = s.pmem := rfl
@[simp] theorem State.setPr_dmem (s : State) (p : Page) : (s.setPr p).dmem = s.dmem := rfl
@[simp] theorem State.setPr_draws (s : State) (p : Page) : (s.setPr p).draws = s.draws := rfl
@[simp] theorem State.setPr_cfg (s : State) (p : Page) : (s.setPr p).cfg = s.cfg := rfl
@[simp] theorem State.setPr_reg (s : State) (p : Page) (q : Reg) : (s.setPr p).reg q = s.reg q := rfl
@[simp] theorem State.setPr_written? (s : State) (p : Page) (d : DataAddr) : (s.setPr p).written? d = s.written? d := rfl
@[simp] theorem State.setPr_dataByte (s : State) (p : Page) (d : DataAddr) : (s.setPr p).dataByte d = s.dataByte d := rfl
@[simp] theorem State.setPr_progWord? (s : State) (p : Page) (d : ProgAddr) : (s.setPr p).progWord? d = s.progWord? d := rfl

/-! ### `State.halt` -/

@[simp] theorem State.halt_regs (s : State) : s.halt.regs = s.regs := rfl
@[simp] theorem State.halt_pc (s : State) : s.halt.pc = s.pc := rfl
@[simp] theorem State.halt_ir (s : State) : s.halt.ir = s.ir := rfl
@[simp] theorem State.halt_scr (s : State) : s.halt.scr = s.scr := rfl
@[simp] theorem State.halt_sp (s : State) : s.halt.sp = s.sp := rfl
@[simp] theorem State.halt_pr (s : State) : s.halt.pr = s.pr := rfl
@[simp] theorem State.halt_window (s : State) : s.halt.window = s.window := rfl
@[simp] theorem State.halt_halted (s : State) : s.halt.halted = true := rfl
@[simp] theorem State.halt_pmem (s : State) : s.halt.pmem = s.pmem := rfl
@[simp] theorem State.halt_dmem (s : State) : s.halt.dmem = s.dmem := rfl
@[simp] theorem State.halt_draws (s : State) : s.halt.draws = s.draws := rfl
@[simp] theorem State.halt_cfg (s : State) : s.halt.cfg = s.cfg := rfl
@[simp] theorem State.halt_reg (s : State) (q : Reg) : s.halt.reg q = s.reg q := rfl
@[simp] theorem State.halt_written? (s : State) (d : DataAddr) : s.halt.written? d = s.written? d := rfl
@[simp] theorem State.halt_dataByte (s : State) (d : DataAddr) : s.halt.dataByte d = s.dataByte d := rfl
@[simp] theorem State.halt_progWord? (s : State) (d : ProgAddr) : s.halt.progWord? d = s.progWord? d := rfl

/-! ### `State.drawn` -/

@[simp] theorem State.drawn_regs (s : State) : s.drawn.regs = s.regs := rfl
@[simp] theorem State.drawn_pc (s : State) : s.drawn.pc = s.pc := rfl
@[simp] theorem State.drawn_ir (s : State) : s.drawn.ir = s.ir := rfl
@[simp] theorem State.drawn_scr (s : State) : s.drawn.scr = s.scr := rfl
@[simp] theorem State.drawn_sp (s : State) : s.drawn.sp = s.sp := rfl
@[simp] theorem State.drawn_pr (s : State) : s.drawn.pr = s.pr := rfl
@[simp] theorem State.drawn_window (s : State) : s.drawn.window = s.window := rfl
@[simp] theorem State.drawn_halted (s : State) : s.drawn.halted = s.halted := rfl
@[simp] theorem State.drawn_pmem (s : State) : s.drawn.pmem = s.pmem := rfl
@[simp] theorem State.drawn_dmem (s : State) : s.drawn.dmem = s.dmem := rfl
@[simp] theorem State.drawn_draws (s : State) : s.drawn.draws = s.draws + 1 := rfl
@[simp] theorem State.drawn_cfg (s : State) : s.drawn.cfg = s.cfg := rfl
@[simp] theorem State.drawn_reg (s : State) (q : Reg) : s.drawn.reg q = s.reg q := rfl
@[simp] theorem State.drawn_written? (s : State) (d : DataAddr) : s.drawn.written? d = s.written? d := rfl
@[simp] theorem State.drawn_dataByte (s : State) (d : DataAddr) : s.drawn.dataByte d = s.dataByte d := rfl
@[simp] theorem State.drawn_progWord? (s : State) (d : ProgAddr) : s.drawn.progWord? d = s.progWord? d := rfl

/-! ### `State.placeWord` -/

@[simp] theorem State.placeWord_regs (s : State) (a : ProgAddr) (w : Word) : (s.placeWord a w).regs = s.regs := rfl
@[simp] theorem State.placeWord_pc (s : State) (a : ProgAddr) (w : Word) : (s.placeWord a w).pc = s.pc := rfl
@[simp] theorem State.placeWord_ir (s : State) (a : ProgAddr) (w : Word) : (s.placeWord a w).ir = s.ir := rfl
@[simp] theorem State.placeWord_scr (s : State) (a : ProgAddr) (w : Word) : (s.placeWord a w).scr = s.scr := rfl
@[simp] theorem State.placeWord_sp (s : State) (a : ProgAddr) (w : Word) : (s.placeWord a w).sp = s.sp := rfl
@[simp] theorem State.placeWord_pr (s : State) (a : ProgAddr) (w : Word) : (s.placeWord a w).pr = s.pr := rfl
@[simp] theorem State.placeWord_window (s : State) (a : ProgAddr) (w : Word) : (s.placeWord a w).window = s.window := rfl
@[simp] theorem State.placeWord_halted (s : State) (a : ProgAddr) (w : Word) : (s.placeWord a w).halted = s.halted := rfl
@[simp] theorem State.placeWord_pmem (s : State) (a : ProgAddr) (w : Word) : (s.placeWord a w).pmem = Memory.write s.pmem a.toNat w := rfl
@[simp] theorem State.placeWord_dmem (s : State) (a : ProgAddr) (w : Word) : (s.placeWord a w).dmem = s.dmem := rfl
@[simp] theorem State.placeWord_draws (s : State) (a : ProgAddr) (w : Word) : (s.placeWord a w).draws = s.draws := rfl
@[simp] theorem State.placeWord_cfg (s : State) (a : ProgAddr) (w : Word) : (s.placeWord a w).cfg = s.cfg := rfl
@[simp] theorem State.placeWord_reg (s : State) (a : ProgAddr) (w : Word) (q : Reg) : (s.placeWord a w).reg q = s.reg q := rfl
@[simp] theorem State.placeWord_written? (s : State) (a : ProgAddr) (w : Word) (d : DataAddr) : (s.placeWord a w).written? d = s.written? d := rfl
@[simp] theorem State.placeWord_dataByte (s : State) (a : ProgAddr) (w : Word) (d : DataAddr) : (s.placeWord a w).dataByte d = s.dataByte d := rfl

/-! ### `State.setByte` -/

@[simp] theorem State.setByte_regs (s : State) (a : DataAddr) (v : Byte) : (s.setByte a v).regs = s.regs := rfl
@[simp] theorem State.setByte_pc (s : State) (a : DataAddr) (v : Byte) : (s.setByte a v).pc = s.pc := rfl
@[simp] theorem State.setByte_ir (s : State) (a : DataAddr) (v : Byte) : (s.setByte a v).ir = s.ir := rfl
@[simp] theorem State.setByte_scr (s : State) (a : DataAddr) (v : Byte) : (s.setByte a v).scr = s.scr := rfl
@[simp] theorem State.setByte_sp (s : State) (a : DataAddr) (v : Byte) : (s.setByte a v).sp = s.sp := rfl
@[simp] theorem State.setByte_pr (s : State) (a : DataAddr) (v : Byte) : (s.setByte a v).pr = s.pr := rfl
@[simp] theorem State.setByte_window (s : State) (a : DataAddr) (v : Byte) : (s.setByte a v).window = s.window := rfl
@[simp] theorem State.setByte_halted (s : State) (a : DataAddr) (v : Byte) : (s.setByte a v).halted = s.halted := rfl
@[simp] theorem State.setByte_pmem (s : State) (a : DataAddr) (v : Byte) : (s.setByte a v).pmem = s.pmem := rfl
@[simp] theorem State.setByte_dmem (s : State) (a : DataAddr) (v : Byte) : (s.setByte a v).dmem = Memory.write s.dmem a.toNat v := rfl
@[simp] theorem State.setByte_draws (s : State) (a : DataAddr) (v : Byte) : (s.setByte a v).draws = s.draws := rfl
@[simp] theorem State.setByte_cfg (s : State) (a : DataAddr) (v : Byte) : (s.setByte a v).cfg = s.cfg := rfl
@[simp] theorem State.setByte_reg (s : State) (a : DataAddr) (v : Byte) (q : Reg) : (s.setByte a v).reg q = s.reg q := rfl
@[simp] theorem State.setByte_progWord? (s : State) (a : DataAddr) (v : Byte) (d : ProgAddr) : (s.setByte a v).progWord? d = s.progWord? d := rfl

/-! ### General registers -/

theorem Regs.get_set (x : Regs) (r q : Reg) (v : Byte) : (x.set r v).get q = if q = r then v else x.get q := by
  cases r <;> cases q <;> rfl

@[simp] theorem State.setReg_reg_self (s : State) (r : Reg) (v : Byte) : (s.setReg r v).reg r = v := by
  simp [State.reg, Regs.get_set]

theorem State.setReg_reg_other (s : State) {r q : Reg} (v : Byte) (h : q ≠ r) : (s.setReg r v).reg q = s.reg q := by
  simp [State.reg, Regs.get_set, h]

theorem State.setReg_reg (s : State) (r q : Reg) (v : Byte) :
    (s.setReg r v).reg q = if q = r then v else s.reg q := by
  simp [State.reg, Regs.get_set]

end Sys2Proof.Machine
end

