-- ==== Sys2Proof/Laws/Memory.lean ====
section
/-! SUPPORT. The laws of the two memories: a read after a write, other addresses, and the canonical form every operation keeps. -/

namespace Sys2Proof.Machine

variable {α : Type}

theorem Memory.read?_write (m : List (Nat × α)) (a b : Nat) (v : α) :
    Memory.read? (Memory.write m a v) b = if b = a then some v else Memory.read? m b := by
  induction m with
  | nil => simp [Memory.write, Memory.read?]
  | cons c m ih =>
    obtain ⟨c, w⟩ := c
    by_cases hlt : a < c
    · by_cases hb : b = a <;> simp [Memory.write, Memory.read?, hlt, hb]
    · by_cases heq : a = c
      · subst heq
        by_cases hb : b = a <;> simp [Memory.write, Memory.read?, hb]
      · by_cases hbc : b = c
        · have hba : ¬c = a := fun h => heq h.symm
          simp [Memory.write, Memory.read?, hlt, heq, hbc, hba]
        · simp [Memory.write, Memory.read?, hlt, heq, hbc, ih]

/-- Every address listed after a write was listed before or is the one written. -/
theorem Memory.mem_write {m : List (Nat × α)} {a : Nat} {v : α} {x : Nat × α} (h : x ∈ Memory.write m a v) :
    x.1 = a ∨ x ∈ m := by
  induction m with
  | nil => simp_all [Memory.write]
  | cons c m ih =>
    obtain ⟨c, w⟩ := c
    simp only [Memory.write] at h
    split at h
    · rcases List.mem_cons.1 h with rfl | h
      · exact .inl rfl
      · exact .inr h
    · split at h
      · rcases List.mem_cons.1 h with rfl | h
        · exact .inl rfl
        · exact .inr (List.mem_cons_of_mem _ h)
      · rcases List.mem_cons.1 h with rfl | h
        · exact .inr List.mem_cons_self
        · exact (ih h).imp id (List.mem_cons_of_mem _)

theorem Memory.wf_nil (size : Nat) : Memory.wf size ([] : List (Nat × α)) := by simp [Memory.wf]

theorem Memory.wf_write {size : Nat} {m : List (Nat × α)} {a : Nat} (v : α) (h : Memory.wf size m) (ha : a < size) :
    Memory.wf size (Memory.write m a v) := by
  obtain ⟨hp, hb⟩ := h
  refine ⟨?_, fun x hx => ?_⟩
  · clear hb
    induction m with
    | nil => simp [Memory.write]
    | cons c m ih =>
      obtain ⟨c, w⟩ := c
      obtain ⟨hc, hm⟩ := List.pairwise_cons.1 hp
      simp only [Memory.write]
      split
      · rename_i hlt
        refine List.pairwise_cons.2 ⟨fun x hx => ?_, hp⟩
        rcases List.mem_cons.1 hx with rfl | hx
        · exact hlt
        · exact Nat.lt_trans hlt (hc x hx)
      · split
        · rename_i heq
          subst heq
          exact List.pairwise_cons.2 ⟨hc, hm⟩
        · refine List.pairwise_cons.2 ⟨fun x hx => ?_, ih hm⟩
          rcases Memory.mem_write hx with h | h
          · show c < x.1
            omega
          · exact hc x h
  · rcases Memory.mem_write hx with h | h
    · omega
    · exact hb x h

/-- Two canonical memories that read alike at every address are the same list. -/
theorem Memory.ext_of_wf {size : Nat} {m n : List (Nat × α)} (hm : Memory.wf size m) (hn : Memory.wf size n)
    (h : ∀ a, Memory.read? m a = Memory.read? n a) : m = n := by
  have low : ∀ (k : List (Nat × α)) (c : Nat), (∀ x ∈ k, c < x.1) → Memory.read? k c = none := by
    intro k c hk
    induction k with
    | nil => rfl
    | cons y k ih =>
      have hy := hk y List.mem_cons_self
      rw [Memory.read?, if_neg (by omega), ih fun x hx => hk x (List.mem_cons_of_mem _ hx)]
  obtain ⟨hm, -⟩ := hm
  obtain ⟨hn, -⟩ := hn
  induction m generalizing n with
  | nil =>
    cases n with
    | nil => rfl
    | cons y n => simpa [Memory.read?] using h y.1
  | cons x m ih =>
    cases n with
    | nil => simpa [Memory.read?] using h x.1
    | cons y n =>
      obtain ⟨hx, hm⟩ := List.pairwise_cons.1 hm
      obtain ⟨hy, hn⟩ := List.pairwise_cons.1 hn
      have key : x.1 = y.1 := by
        rcases Nat.lt_trichotomy x.1 y.1 with hlt | heq | hlt
        · have := h x.1
          rw [low (y :: n) x.1 (by
            intro z hz
            rcases List.mem_cons.1 hz with rfl | hz
            · exact hlt
            · exact Nat.lt_trans hlt (hy z hz))] at this
          simp [Memory.read?] at this
        · exact heq
        · have := h y.1
          rw [low (x :: m) y.1 (by
            intro z hz
            rcases List.mem_cons.1 hz with rfl | hz
            · exact hlt
            · exact Nat.lt_trans hlt (hx z hz))] at this
          simp [Memory.read?] at this
      have hval : x.2 = y.2 := by simpa [Memory.read?, key] using h x.1
      have hrest : m = n := by
        refine ih (fun a => ?_) hm hn
        by_cases ha : a = x.1
        · rw [low m a (by rw [ha]; exact hx), low n a (by rw [ha, key]; exact hy)]
        · have := h a
          simpa [Memory.read?, ha, show ¬a = y.1 from key ▸ ha] using this
      rw [hrest, Prod.ext key hval]

/-! ### The accessors of `State` -/

theorem State.setByte_written? (s : State) (a d : DataAddr) (v : Byte) :
    (s.setByte a v).written? d = if d = a then some v else s.written? d := by
  simp [State.written?, Memory.read?_write, BitVec.toNat_eq]

theorem State.setByte_dataByte (s : State) (a d : DataAddr) (v : Byte) :
    (s.setByte a v).dataByte d = if d = a then v else s.dataByte d := by
  simp only [State.dataByte, State.setByte_written?]
  split <;> rfl

theorem State.placeWord_progWord? (s : State) (a d : ProgAddr) (w : Word) :
    (s.placeWord a w).progWord? d = if d = a then some w else s.progWord? d := by
  simp [State.progWord?, Memory.read?_write, BitVec.toNat_eq]

theorem State.setByte_wf {s : State} (a : DataAddr) (v : Byte) (h : Memory.wf 4096 s.dmem) :
    Memory.wf 4096 (s.setByte a v).dmem :=
  Memory.wf_write v h a.isLt

theorem State.placeWord_wf {s : State} (a : ProgAddr) (w : Word) (h : Memory.wf 2048 s.pmem) :
    Memory.wf 2048 (s.placeWord a w).pmem :=
  Memory.wf_write w h a.isLt

theorem State.resetWith_wf (rv : Config.ResetValues) (cfg : Config.Params) :
    Memory.wf 4096 (State.resetWith rv cfg).dmem ∧ Memory.wf 2048 (State.resetWith rv cfg).pmem :=
  ⟨Memory.wf_nil _, Memory.wf_nil _⟩

theorem State.reset_wf : Memory.wf 4096 State.reset.dmem ∧ Memory.wf 2048 State.reset.pmem :=
  State.resetWith_wf _ _

end Sys2Proof.Machine
end

