-- ==== Sys2Proof/Laws/Ops.lean ====
section
/-! SUPPORT. For each shared operation, once, everything it can do when it answers a next state; and the same for a step. -/

namespace Sys2Proof.Machine

/-! ### Sequencing and the byte accesses -/

@[simp] theorem andThen_next (s : State) (k : State → Result) : andThen (.next s) k = k s := rfl

@[simp] theorem andThen_refused (r : Refusal) (k : State → Result) : andThen (.refused r) k = .refused r := rfl

@[simp] theorem andThen_fault (r : Fault) (k : State → Result) : andThen (.fault r) k = .fault r := rfl

theorem andThen_eq_next {o : Result} {k : State → Result} {t : State} :
    andThen o k = .next t ↔ ∃ u, o = .next u ∧ k u = .next t := by
  cases o <;> simp [andThen]

theorem storeByte_plain {s : State} {a : DataAddr} (v : Byte) (h : a ∉ s.cfg.deviceMap) :
    storeByte s a v = .next (s.setByte a v) := if_neg h

theorem storeByte_device {s : State} {a : DataAddr} (v : Byte) (h : a ∈ s.cfg.deviceMap) :
    storeByte s a v = .refused (.dataDevice a) := if_pos h

theorem storeByte_eq_next {s t : State} {a : DataAddr} {v : Byte} :
    storeByte s a v = .next t ↔ a ∉ s.cfg.deviceMap ∧ t = s.setByte a v := by
  unfold storeByte
  split <;> simp_all [eq_comm]

theorem loadByte_plain {s : State} {a : DataAddr} (k : Byte → Result) (h : a ∉ s.cfg.deviceMap) :
    loadByte s a k = k (s.dataByte a) := if_neg h

theorem loadByte_device {s : State} {a : DataAddr} (k : Byte → Result) (h : a ∈ s.cfg.deviceMap) :
    loadByte s a k = .refused (.dataDevice a) := if_pos h

theorem loadByte_eq_next {s t : State} {a : DataAddr} {k : Byte → Result} :
    loadByte s a k = .next t ↔ a ∉ s.cfg.deviceMap ∧ k (s.dataByte a) = .next t := by
  unfold loadByte
  split <;> simp_all

/-! ### The page write, the fetch, the window -/

@[simp] theorem State.pageWrite_scr (s : State) : s.pageWrite.scr = { s.scr with p := false } := rfl

@[simp] theorem State.pageWrite_pr (s : State) : s.pageWrite.pr = pageOf (s.reg .r6) := rfl

@[simp] theorem State.pageWrite_window (s : State) : s.pageWrite.window = false := rfl

@[simp] theorem State.pageWrite_reg (s : State) (r : Reg) : s.pageWrite.reg r = s.reg r := rfl

theorem fetch_eq_next {s t : State} :
    fetch s = .next t ↔ ∃ w, s.progWord? s.pc = some w ∧ t = s.fetched w := by
  unfold fetch
  split <;> rename_i h <;> simp [h, eq_comm]

/-- A page write late after choice `c` touches PR, P and the window only. -/
theorem lateWrite_eq (c : Config.WindowChoice) (i : Instr) (s t : State) :
    lateWrite c i s t = { t with
      pr := (lateWrite c i s t).pr
      scr := { t.scr with p := (lateWrite c i s t).scr.p }
      window := (lateWrite c i s t).window } := by
  unfold lateWrite
  split_ifs <;> rfl

/-- What `runWindow` can be, stops included: the instruction after the page write, or, on the hazard list in the window of a
`stcr`, after it or before it. -/
theorem runWindow_cases (i : Instr) (s : State) :
    ((s.window = false ∨ windowHazard i = false) ∧ runWindow i s = exec i s.pageWrite) ∨
    (s.window = true ∧ windowHazard i = true ∧ (runWindow i s = exec i s.drawn.pageWrite ∨
      ∃ c, runWindow i s = andThen (exec i s.drawn) fun u => .next (lateWrite c i s.drawn u))) := by
  unfold runWindow
  split
  · rename_i h
    obtain ⟨hw, hz⟩ := Bool.and_eq_true_iff.1 h
    refine .inr ⟨hw, hz, ?_⟩
    unfold placeWrite
    split
    · exact .inr ⟨_, rfl⟩
    · exact .inl rfl
  · rename_i h
    exact .inl ⟨by simpa [Decidable.or_iff_not_imp_left] using h, rfl⟩

/-- A pending page write comes before the instruction, or, on the hazard list in the window of a `stcr`, before or after. -/
theorem runWindow_eq_next {i : Instr} {s t : State} (h : runWindow i s = .next t) :
    ((s.window = false ∨ windowHazard i = false) ∧ exec i s.pageWrite = .next t) ∨
    (s.window = true ∧ windowHazard i = true ∧ exec i s.drawn.pageWrite = .next t) ∨
    (s.window = true ∧ windowHazard i = true ∧ ∃ c u, exec i s.drawn = .next u ∧ t = lateWrite c i s.drawn u) := by
  rcases runWindow_cases i s with ⟨hz, e⟩ | ⟨hw, hz, e | ⟨c, e⟩⟩ <;> rw [e] at h
  · exact .inl ⟨hz, h⟩
  · exact .inr (.inl ⟨hw, hz, h⟩)
  · obtain ⟨u, hu, ht⟩ := andThen_eq_next.1 h
    exact .inr (.inr ⟨hw, hz, c, u, hu, by simpa [eq_comm] using ht⟩)

/-- A step that answers a next state fetched a placed word on a machine that was not halted, and performed it. -/
theorem step_eq_next {s t : State} :
    step s = .next t ↔ s.halted = false ∧ ∃ w, s.progWord? s.pc = some w ∧ perform (s.fetched w) = .next t := by
  unfold step cycle
  cases h : s.halted
  · simp only [Bool.false_eq_true, if_false, andThen_eq_next, fetch_eq_next, true_and]
    constructor
    · rintro ⟨_, ⟨w, hw, rfl⟩, ht⟩
      exact ⟨w, hw, ht⟩
    · rintro ⟨w, hw, ht⟩
      exact ⟨_, ⟨w, hw, rfl⟩, ht⟩
  · simp

/-- The four ways a step can answer a next state: the instruction alone with no page write pending; with one pending, the
instruction after it; or, on the hazard list in the window of a `stcr`, after it or before it. -/
theorem step_cases {s t : State} (h : step s = .next t) :
    ∃ w, s.halted = false ∧ s.progWord? s.pc = some w ∧
      ((s.scr.p = false ∧ exec (decode w) (s.fetched w) = .next t) ∨
       (s.scr.p = true ∧ (s.window = false ∨ windowHazard (decode w) = false) ∧
          exec (decode w) (s.fetched w).pageWrite = .next t) ∨
       (s.scr.p = true ∧ s.window = true ∧ windowHazard (decode w) = true ∧
          exec (decode w) (s.fetched w).drawn.pageWrite = .next t) ∨
       (s.scr.p = true ∧ s.window = true ∧ windowHazard (decode w) = true ∧ ∃ c u,
          exec (decode w) (s.fetched w).drawn = .next u ∧ t = lateWrite c (decode w) (s.fetched w).drawn u)) := by
  obtain ⟨hh, w, hw, hp⟩ := step_eq_next.1 h
  refine ⟨w, hh, hw, ?_⟩
  unfold perform at hp
  cases hP : s.scr.p
  · exact .inl ⟨rfl, by simpa [State.fetched, hP] using hp⟩
  · have hr : runWindow (decode w) (s.fetched w) = .next t := by simpa [State.fetched, hP] using hp
    rcases runWindow_eq_next hr with ⟨hz, he⟩ | ⟨ho, hz, he⟩ | ⟨ho, hz, he⟩
    · exact .inr (.inl ⟨rfl, hz, he⟩)
    · exact .inr (.inr (.inl ⟨rfl, ho, hz, he⟩))
    · exact .inr (.inr (.inr ⟨rfl, ho, hz, he⟩))

end Sys2Proof.Machine
end

