-- ==== Sys2Proof/Laws/PerInstr.lean ====
section
/-! SUPPORT. The per-instruction family `EncodeCanonical`: the word of an instruction has 0 in every X bit (30_encoding.md R84) and its row's `match` under the opcode mask (R88). -/

namespace Sys2Proof.Laws.EncodeCanonical

/-- The word `encode` gives is well-formed and belongs to the instruction's row of the opcode map. -/
def Statement (i : Instr) : Prop := wellFormed (encode i) = true ∧ encode i &&& 0xF800 = Machine.matchWord i

theorem opcodeField_bit (w : Word) (k : Nat) :
    (opcodeField w).getLsbD k = (decide (k < 5) && w.getLsbD (11 + k)) := by
  simp [opcodeField]

/-- Once the opcode is known, the statement is about bits. -/
theorem of_opcode {i : Instr} (op : BitVec 5) (ho : opcodeField (encode i) = op)
    (hu : encode i &&& (formatOf op).unusedBits = 0) (hm : encode i &&& 0xF800 = Machine.matchWord i) :
    Statement i :=
  ⟨by simp [wellFormed, unusedBits, ho, hu], hm⟩

theorem nop : Statement (.nop) := ⟨by decide, by decide⟩

theorem add (rd rs : Reg) : Statement (.add rd rs) := by
  cases rd <;> cases rs <;> exact ⟨by decide, by decide⟩

theorem addc (rd rs : Reg) : Statement (.addc rd rs) := by
  cases rd <;> cases rs <;> exact ⟨by decide, by decide⟩

theorem sub (rd rs : Reg) : Statement (.sub rd rs) := by
  cases rd <;> cases rs <;> exact ⟨by decide, by decide⟩

theorem subc (rd rs : Reg) : Statement (.subc rd rs) := by
  cases rd <;> cases rs <;> exact ⟨by decide, by decide⟩

theorem inc (rd : Reg) : Statement (.inc rd) := by
  cases rd <;> exact ⟨by decide, by decide⟩

theorem dec (rd : Reg) : Statement (.dec rd) := by
  cases rd <;> exact ⟨by decide, by decide⟩

theorem and (rd rs : Reg) : Statement (.and rd rs) := by
  cases rd <;> cases rs <;> exact ⟨by decide, by decide⟩

theorem or (rd rs : Reg) : Statement (.or rd rs) := by
  cases rd <;> cases rs <;> exact ⟨by decide, by decide⟩

theorem xor (rd rs : Reg) : Statement (.xor rd rs) := by
  cases rd <;> cases rs <;> exact ⟨by decide, by decide⟩

theorem not (rd : Reg) : Statement (.not rd) := by
  cases rd <;> exact ⟨by decide, by decide⟩

theorem sll (rd : Reg) : Statement (.sll rd) := by
  cases rd <;> exact ⟨by decide, by decide⟩

theorem slr (rd : Reg) : Statement (.slr rd) := by
  cases rd <;> exact ⟨by decide, by decide⟩

theorem mov (rd rs : Reg) : Statement (.mov rd rs) := by
  cases rd <;> cases rs <;> exact ⟨by decide, by decide⟩

theorem psh (rs : Reg) : Statement (.psh rs) := by
  cases rs <;> exact ⟨by decide, by decide⟩

theorem pll (rd : Reg) : Statement (.pll rd) := by
  cases rd <;> exact ⟨by decide, by decide⟩

theorem stz (off : Offset) (rs : Reg) : Statement (.stz off rs) := by
  refine of_opcode 0b10000 ?_ ?_ ?_ <;> apply BitVec.eq_of_getLsbD_eq <;> intro k hk <;> interval_cases k <;>
    simp [-BitVec.getLsbD_eq_getElem, opcodeField_bit, encodeStz_bit, formatOf, Format.unusedBits, Machine.matchWord]

theorem ldz (rd : Reg) (off : Offset) : Statement (.ldz rd off) := by
  refine of_opcode 0b10001 ?_ ?_ ?_ <;> apply BitVec.eq_of_getLsbD_eq <;> intro k hk <;> interval_cases k <;>
    simp [-BitVec.getLsbD_eq_getElem, opcodeField_bit, encodeLdz_bit, formatOf, Format.unusedBits, Machine.matchWord]

theorem st (addr : BitVec 8) (rs : Reg) : Statement (.st addr rs) := by
  refine of_opcode 0b10010 ?_ ?_ ?_ <;> apply BitVec.eq_of_getLsbD_eq <;> intro k hk <;> interval_cases k <;>
    simp [-BitVec.getLsbD_eq_getElem, opcodeField_bit, encodeSt_bit, formatOf, Format.unusedBits, Machine.matchWord]

theorem ld (rd : Reg) (addr : BitVec 8) : Statement (.ld rd addr) := by
  refine of_opcode 0b10011 ?_ ?_ ?_ <;> apply BitVec.eq_of_getLsbD_eq <;> intro k hk <;> interval_cases k <;>
    simp [-BitVec.getLsbD_eq_getElem, opcodeField_bit, encode, layoutLD_bit, formatOf, Format.unusedBits, Machine.matchWord]

theorem ldi (rd : Reg) (data : Byte) : Statement (.ldi rd data) := by
  refine of_opcode 0b10100 ?_ ?_ ?_ <;> apply BitVec.eq_of_getLsbD_eq <;> intro k hk <;> interval_cases k <;>
    simp [-BitVec.getLsbD_eq_getElem, opcodeField_bit, encode, layoutLD_bit, formatOf, Format.unusedBits, Machine.matchWord]

theorem jpa (target : ProgAddr) : Statement (.jpa target) := by
  refine of_opcode 0b10101 ?_ ?_ ?_ <;> apply BitVec.eq_of_getLsbD_eq <;> intro k hk <;> interval_cases k <;>
    simp [-BitVec.getLsbD_eq_getElem, opcodeField_bit, encode, layoutJ_bit, formatOf, Format.unusedBits, Machine.matchWord]

theorem bra (off : Offset) : Statement (.bra off) := by
  refine of_opcode 0b10110 ?_ ?_ ?_ <;> apply BitVec.eq_of_getLsbD_eq <;> intro k hk <;> interval_cases k <;>
    simp [-BitVec.getLsbD_eq_getElem, opcodeField_bit, encodeBra_bit, formatOf, Format.unusedBits, Machine.matchWord]

theorem brs (sf : Bool) (off : Offset) (cc : Cond) : Statement (.brs sf off cc) := by
  refine of_opcode 0b10111 ?_ ?_ ?_ <;> apply BitVec.eq_of_getLsbD_eq <;> intro k hk <;> interval_cases k <;>
    simp [-BitVec.getLsbD_eq_getElem, opcodeField_bit, encode, layoutBRC_bit, formatOf, Format.unusedBits, Machine.matchWord]

theorem brc (sf : Bool) (off : Offset) (cc : Cond) : Statement (.brc sf off cc) := by
  refine of_opcode 0b11000 ?_ ?_ ?_ <;> apply BitVec.eq_of_getLsbD_eq <;> intro k hk <;> interval_cases k <;>
    simp [-BitVec.getLsbD_eq_getElem, opcodeField_bit, encode, layoutBRC_bit, formatOf, Format.unusedBits, Machine.matchWord]

theorem call (target : ProgAddr) : Statement (.call target) := by
  refine of_opcode 0b11001 ?_ ?_ ?_ <;> apply BitVec.eq_of_getLsbD_eq <;> intro k hk <;> interval_cases k <;>
    simp [-BitVec.getLsbD_eq_getElem, opcodeField_bit, encode, layoutJ_bit, formatOf, Format.unusedBits, Machine.matchWord]

theorem ret : Statement (.ret) := ⟨by decide, by decide⟩

theorem lcr (rd : Reg) : Statement (.lcr rd) := by
  cases rd <;> exact ⟨by decide, by decide⟩

theorem stcr (rs : Reg) : Statement (.stcr rs) := by
  cases rs <;> exact ⟨by decide, by decide⟩

theorem res2 : Statement (.res2) := ⟨by decide, by decide⟩

theorem res3 : Statement (.res3) := ⟨by decide, by decide⟩

theorem hlt : Statement (.hlt) := ⟨by decide, by decide⟩

end Sys2Proof.Laws.EncodeCanonical
end

