-- ==== Sys2Proof/Tests/Slice0.lean ====
section
/-! SUPPORT. Tests. Words, operands and results are those of 95_test_vectors.md or are worked out by hand from the rule named; a bit the rules leave open is not looked at. The witnesses at the end meet the hypotheses of the statements, clause by clause. -/

namespace Sys2Proof.Tests

open Sys2Proof.Machine

/-! ### Helpers -/

/-- The reset state, changed by `f`, about to fetch word `w` at address `a`. -/
def atWord (a : ProgAddr) (w : Nat) (f : State → State) : State := ((f State.reset).setPc a).withFetchWord 16 w

/-- What `f` reads in the next state, if there is one. -/
def after {β : Type} (f : State → β) : Result → Option β
  | .next t => some (f t)
  | _ => none

/-- The state with the six SCR bits P Z S N V C. -/
def withScr (b : BitVec 6) (s : State) : State := s.setScr (Scr.ofBits b)

/-- The state right after a `stcr` that set P, the status bits 0. -/
def afterStcr (s : State) : State := (withScr 0 s).setP true

/-- Two registers set. -/
def regs2 (a : Reg) (x : Byte) (b : Reg) (y : Byte) (s : State) : State := (s.setReg a x).setReg b y

/-- The state with the parameters `c`. -/
def withCfg (c : Config.Params) (s : State) : State := { s with cfg := c }

/-! ### Well-formed words (R83, R84): each layout with its X bits 0, and with one of them 1 -/

theorem test_wellFormed_rr : wellFormed 0x0902 = true ∧ wellFormed 0x0982 = false ∧ wellFormed 0x090A = false := by decide

theorem test_wellFormed_rd : wellFormed 0x2A00 = true ∧ wellFormed 0x2A80 = false ∧ wellFormed 0x2A01 = false := by decide

theorem test_wellFormed_rs : wellFormed 0x7007 = true ∧ wellFormed 0x7407 = false ∧ wellFormed 0x700F = false := by decide

theorem test_wellFormed_none : wellFormed 0x0000 = true ∧ wellFormed 0x0400 = false ∧ wellFormed 0x0001 = false := by decide

theorem test_wellFormed_stz : wellFormed 0x802A = true ∧ wellFormed 0x842A = false ∧ wellFormed 0x812A = false := by decide

theorem test_wellFormed_ldz : wellFormed 0x8A20 = true ∧ wellFormed 0x8A24 = false ∧ wellFormed 0x8A21 = false := by decide

theorem test_wellFormed_bra : wellFormed 0xB0F8 = true ∧ wellFormed 0xB4F8 = false ∧ wellFormed 0xB0F9 = false := by decide

theorem test_wellFormed_brc : wellFormed 0xBC0E = true ∧ wellFormed 0xBE0E = false ∧ wellFormed 0xBD0E = false := by decide

/-- `st`, `ld`, `ldi`, `jpa`, `call` have no X bit: all ones is well-formed. -/
theorem test_wellFormed_full : wellFormed 0x97FF = true ∧ wellFormed 0x9FFF = true ∧ wellFormed 0xA7FF = true ∧
    wellFormed 0xAFFF = true ∧ wellFormed 0xCFFF = true := by decide

/-! ### Decoding: one word per constructor, written out from the layouts of R83 and the opcodes of R88 -/

theorem test_decode_nop : decode 0b0000000000000000 = .nop ∧ encode (.nop) = 0b0000000000000000 := by decide

theorem test_decode_add : decode 0b0000100100000010 = .add .r1 .r2 ∧ encode (.add .r1 .r2) = 0b0000100100000010 := by decide

theorem test_decode_addc : decode 0b0001000100000010 = .addc .r1 .r2 ∧ encode (.addc .r1 .r2) = 0b0001000100000010 := by decide

theorem test_decode_sub : decode 0b0001100100000010 = .sub .r1 .r2 ∧ encode (.sub .r1 .r2) = 0b0001100100000010 := by decide

theorem test_decode_subc : decode 0b0010000100000010 = .subc .r1 .r2 ∧ encode (.subc .r1 .r2) = 0b0010000100000010 := by decide

theorem test_decode_inc : decode 0b0010101000000000 = .inc .r2 ∧ encode (.inc .r2) = 0b0010101000000000 := by decide

theorem test_decode_dec : decode 0b0011000100000000 = .dec .r1 ∧ encode (.dec .r1) = 0b0011000100000000 := by decide

theorem test_decode_and : decode 0b0011100100000010 = .and .r1 .r2 ∧ encode (.and .r1 .r2) = 0b0011100100000010 := by decide

theorem test_decode_or : decode 0b0100000100000010 = .or .r1 .r2 ∧ encode (.or .r1 .r2) = 0b0100000100000010 := by decide

theorem test_decode_xor : decode 0b0100101100000100 = .xor .r3 .r4 ∧ encode (.xor .r3 .r4) = 0b0100101100000100 := by decide

theorem test_decode_not : decode 0b0101001100000000 = .not .r3 ∧ encode (.not .r3) = 0b0101001100000000 := by decide

theorem test_decode_sll : decode 0b0101100100000000 = .sll .r1 ∧ encode (.sll .r1) = 0b0101100100000000 := by decide

theorem test_decode_slr : decode 0b0110001000000000 = .slr .r2 ∧ encode (.slr .r2) = 0b0110001000000000 := by decide

theorem test_decode_mov : decode 0b0110111000000101 = .mov .r6 .r5 ∧ encode (.mov .r6 .r5) = 0b0110111000000101 := by decide

theorem test_decode_psh : decode 0b0111000000000111 = .psh .r7 ∧ encode (.psh .r7) = 0b0111000000000111 := by decide

theorem test_decode_pll : decode 0b0111111000000000 = .pll .r6 ∧ encode (.pll .r6) = 0b0111111000000000 := by decide

theorem test_decode_stz : decode 0b1000000000101010 = .stz 5 .r2 ∧ encode (.stz 5 .r2) = 0b1000000000101010 := by decide

theorem test_decode_ldz : decode 0b1000101000100000 = .ldz .r2 4 ∧ encode (.ldz .r2 4) = 0b1000101000100000 := by decide

theorem test_decode_st : decode 0b1001000110100001 = .st 0x34 .r1 ∧ encode (.st 0x34 .r1) = 0b1001000110100001 := by decide

theorem test_decode_ld : decode 0b1001101100110101 = .ld .r3 0x35 ∧ encode (.ld .r3 0x35) = 0b1001101100110101 := by decide

theorem test_decode_ldi : decode 0b1010000101011100 = .ldi .r1 0x5C ∧ encode (.ldi .r1 0x5C) = 0b1010000101011100 := by decide

theorem test_decode_jpa : decode 0b1010100100100011 = .jpa 0x123 ∧ encode (.jpa 0x123) = 0b1010100100100011 := by decide

theorem test_decode_bra : decode 0b1011000011111000 = .bra 0b11111 ∧ encode (.bra 0b11111) = 0b1011000011111000 := by decide

theorem test_decode_brs : decode 0b1011110000001110 = .brs true 1 .lt ∧ encode (.brs true 1 .lt) = 0b1011110000001110 := by decide

theorem test_decode_brc : decode 0b1100000011101100 = .brc false 0b11101 .z ∧ encode (.brc false 0b11101 .z) = 0b1100000011101100 := by decide

theorem test_decode_call : decode 0b1100101010100000 = .call 0x2A0 ∧ encode (.call 0x2A0) = 0b1100101010100000 := by decide

theorem test_decode_ret : decode 0b1101000000000000 = .ret ∧ encode (.ret) = 0b1101000000000000 := by decide

theorem test_decode_lcr : decode 0b1101110000000000 = .lcr .r4 ∧ encode (.lcr .r4) = 0b1101110000000000 := by decide

theorem test_decode_stcr : decode 0b1110000000000110 = .stcr .r6 ∧ encode (.stcr .r6) = 0b1110000000000110 := by decide

theorem test_decode_res2 : decode 0b1110100000000000 = .res2 ∧ encode (.res2) = 0b1110100000000000 := by decide

theorem test_decode_res3 : decode 0b1111000000000000 = .res3 ∧ encode (.res3) = 0b1111000000000000 := by decide

theorem test_decode_hlt : decode 0b1111100000000000 = .hlt ∧ encode (.hlt) = 0b1111100000000000 := by decide

/-- X bits are ignored (R84): the two vectors of 95_test_vectors.md section 2.1 and one per other layout that has some. -/
theorem test_decode_unused : decode 0xFFFF = .hlt ∧ decode 0x07FF = .nop ∧ decode 0x09FA = .add .r1 .r2 ∧
    decode 0x2AFF = .inc .r2 ∧ decode 0x77FF = .psh .r7 ∧ decode 0x872A = .stz 5 .r2 ∧ decode 0x8A27 = .ldz .r2 4 ∧
    decode 0xB7FF = .bra 0b11111 ∧ decode 0xBF0E = .brs true 1 .lt := by decide

theorem test_decodeTableWord : decodeTableWord 16 0x0902 = some (.add .r1 .r2) ∧ decodeTableWord 24 0x0902 = none := by
  decide

/-! ### Steps (95_test_vectors.md sections 2.2 to 2.6). The flags are in the order C V N S Z P. -/

theorem test_add_overflow : after (fun t => (t.reg .r1, t.scr, t.pc)) (step (atWord 0x010 0x0902 (regs2 .r1 0x7F .r2 0x01))) =
    some (0x80, ⟨false, true, true, false, false, false⟩, 0x011) := by decide

theorem test_add_both : after (fun t => (t.reg .r1, t.scr, t.pc)) (step (atWord 0x010 0x0902 (regs2 .r1 0x80 .r2 0x80))) =
    some (0x00, ⟨true, true, false, true, true, false⟩, 0x011) := by decide

theorem test_addc_carry_in : after (fun t => (t.reg .r1, t.scr, t.pc)) (step (atWord 0x010 0x1102 (withScr 1 ∘ regs2 .r1 0xFF .r2 0x00))) =
    some (0x00, ⟨true, false, false, false, true, false⟩, 0x011) := by decide

theorem test_addc_overflow : after (fun t => (t.reg .r1, t.scr, t.pc)) (step (atWord 0x010 0x1102 (withScr 1 ∘ regs2 .r1 0x7F .r2 0x00))) =
    some (0x80, ⟨false, true, true, false, false, false⟩, 0x011) := by decide

theorem test_sub_borrow : after (fun t => (t.reg .r1, t.scr, t.pc)) (step (atWord 0x010 0x1902 (regs2 .r1 0x7F .r2 0xFF))) =
    some (0x80, ⟨true, true, true, false, false, false⟩, 0x011) := by decide

theorem test_sub_signed : after (fun t => (t.reg .r1, t.scr, t.pc)) (step (atWord 0x010 0x1902 (regs2 .r1 0x80 .r2 0x01))) =
    some (0x7F, ⟨false, true, false, true, false, false⟩, 0x011) := by decide

theorem test_subc_borrow_in : after (fun t => (t.reg .r1, t.scr, t.pc)) (step (atWord 0x010 0x2102 (withScr 1 ∘ regs2 .r1 0x00 .r2 0xFF))) =
    some (0x00, ⟨true, false, false, false, true, false⟩, 0x011) := by decide

theorem test_subc_signed : after (fun t => (t.reg .r1, t.scr, t.pc)) (step (atWord 0x010 0x2102 (withScr 1 ∘ regs2 .r1 0x7F .r2 0xFF))) =
    some (0x7F, ⟨true, false, false, false, false, false⟩, 0x011) := by decide

theorem test_inc_wrap : after (fun t => (t.reg .r2, t.scr, t.pc)) (step (atWord 0x010 0x2A00 (regs2 .r1 0x00 .r2 0xFF))) =
    some (0x00, ⟨true, false, false, false, true, false⟩, 0x011) := by decide

theorem test_inc_overflow : after (fun t => (t.reg .r2, t.scr, t.pc)) (step (atWord 0x010 0x2A00 (regs2 .r1 0x00 .r2 0x7F))) =
    some (0x80, ⟨false, true, true, false, false, false⟩, 0x011) := by decide

theorem test_dec_wrap : after (fun t => (t.reg .r1, t.scr, t.pc)) (step (atWord 0x010 0x3100 (regs2 .r1 0x00 .r2 0x00))) =
    some (0xFF, ⟨true, false, true, true, false, false⟩, 0x011) := by decide

theorem test_dec_overflow : after (fun t => (t.reg .r1, t.scr, t.pc)) (step (atWord 0x010 0x3100 (regs2 .r1 0x80 .r2 0x00))) =
    some (0x7F, ⟨false, true, false, true, false, false⟩, 0x011) := by decide

theorem test_and_zero : after (fun t => (t.reg .r1, t.scr.v, t.scr.n, t.scr.s, t.scr.z)) (step (atWord 0x010 0x3902 (regs2 .r1 0xF0 .r2 0x0F))) =
    some (0x00, false, false, false, true) := by decide

theorem test_and_negative : after (fun t => (t.reg .r1, t.scr.v, t.scr.n, t.scr.s, t.scr.z)) (step (atWord 0x010 0x3902 (regs2 .r1 0xFF .r2 0x81))) =
    some (0x81, false, true, true, false) := by decide

theorem test_or_negative : after (fun t => (t.reg .r1, t.scr.v, t.scr.n, t.scr.s, t.scr.z)) (step (atWord 0x010 0x4102 (regs2 .r1 0x81 .r2 0x02))) =
    some (0x83, false, true, true, false) := by decide

theorem test_or_zero : after (fun t => (t.reg .r1, t.scr.v, t.scr.n, t.scr.s, t.scr.z)) (step (atWord 0x010 0x4102 (regs2 .r1 0x00 .r2 0x00))) =
    some (0x00, false, false, false, true) := by decide

theorem test_xor_negative : after (fun t => (t.reg .r1, t.scr.v, t.scr.n, t.scr.s, t.scr.z)) (step (atWord 0x010 0x4902 (regs2 .r1 0xFF .r2 0x0F))) =
    some (0xF0, false, true, true, false) := by decide

theorem test_xor_self : after (fun t => (t.reg .r3, t.scr.v, t.scr.n, t.scr.s, t.scr.z)) (step (atWord 0x010 0x4B03 (fun s => s.setReg .r3 0x81))) =
    some (0x00, false, false, false, true) := by decide

theorem test_not_negative : after (fun t => (t.reg .r3, t.scr.v, t.scr.n, t.scr.s, t.scr.z)) (step (atWord 0x010 0x5300 (fun s => s.setReg .r3 0x0F))) =
    some (0xF0, false, true, true, false) := by decide

theorem test_not_zero : after (fun t => (t.reg .r3, t.scr.v, t.scr.n, t.scr.s, t.scr.z)) (step (atWord 0x010 0x5300 (fun s => s.setReg .r3 0xFF))) =
    some (0x00, false, false, false, true) := by decide

theorem test_sll_carry : after (fun t => (t.reg .r1, t.scr.c, t.scr.n, t.scr.z)) (step (atWord 0x010 0x5900 (regs2 .r1 0x81 .r2 0x00))) =
    some (0x02, true, false, false) := by decide

theorem test_sll_negative : after (fun t => (t.reg .r1, t.scr.c, t.scr.n, t.scr.z)) (step (atWord 0x010 0x5900 (regs2 .r1 0x40 .r2 0x00))) =
    some (0x80, false, true, false) := by decide

theorem test_slr_carry : after (fun t => (t.reg .r2, t.scr.c, t.scr.n, t.scr.z)) (step (atWord 0x010 0x6200 (regs2 .r1 0x00 .r2 0x01))) =
    some (0x00, true, false, true) := by decide

theorem test_slr_high : after (fun t => (t.reg .r2, t.scr.c, t.scr.n, t.scr.z)) (step (atWord 0x010 0x6200 (regs2 .r1 0x00 .r2 0xFF))) =
    some (0x7F, true, false, false) := by decide

theorem test_mov : after (fun t => (t.reg .r1, t.reg .r0, t.scr.bits)) (step (atWord 0x010 0x6900 (withScr 0b011111 ∘ regs2 .r0 0x15 .r1 0x77))) =
    some (0x15, 0x15, 0b011111) := by decide

theorem test_mov_self : after (fun t => (t.reg .r7, t.pc)) (step (atWord 0x010 0x6F07 (fun s => s.setReg .r7 0x30))) =
    some (0x30, 0x011) := by decide

theorem test_ldi : after (fun t => (t.reg .r1, t.pc)) (step (atWord 0x010 0xA15C (id))) =
    some (0x5C, 0x011) := by decide

theorem test_ldi_zero : after (fun t => (t.reg .r0, t.scr.z)) (step (atWord 0x010 0xA000 (fun s => s.setReg .r0 0xFF))) =
    some (0x00, false) := by decide

theorem test_st_page : after (fun t => (t.written? 0xA34, t.written? 0x034)) (step (atWord 0x010 0x91A1 (fun s => (s.setPr 0xA).setReg .r1 0x5C))) =
    some (some 0x5C, none) := by decide

theorem test_st_top : after (fun t => t.written? 0xFFF) (step (atWord 0x010 0x97FF (fun s => (s.setPr 0xF).setReg .r7 0x12))) =
    some (some 0x12) := by decide

theorem test_ld_page : after (fun t => t.reg .r3) (step (atWord 0x010 0x9B35 (fun s => ((s.setPr 0x2).setByte 0x235 0x99).setByte 0xA35 0x5D))) =
    some 0x99 := by decide

theorem test_ld_keeps_flags : after (fun t => (t.reg .r3, t.scr.bits)) (step (atWord 0x010 0x9B35 (fun s => ((withScr 0b011111 s).setPr 0xA).setByte 0xA35 0x5D))) =
    some (0x5D, 0b011111) := by decide

theorem test_stz_carry_lost : after (fun t => (t.written? 0x10F, t.written? 0x20F)) (step (atWord 0x010 0x80FF (fun s => (s.setPr 0x1).setReg .r7 0xF0))) =
    some (some 0xF0, none) := by decide

theorem test_stz_base : after (fun t => t.written? 0x3FF) (step (atWord 0x010 0x8000 (fun s => ((s.setPr 0x3).setReg .r7 0xFF).setReg .r0 0x01))) =
    some (some 0x01) := by decide

theorem test_ldz_destination_is_base : after (fun t => t.reg .r7) (step (atWord 0x010 0x8FF8 (fun s => (s.setReg .r7 0xE1).setByte 0x000 0x44))) =
    some 0x44 := by decide

theorem test_ldz_unsigned_offset : after (fun t => t.reg .r0) (step (atWord 0x010 0x8880 (fun s => ((s.setPr 0x5).setReg .r7 0x10).setByte 0x520 0x07))) =
    some 0x07 := by decide

theorem test_psh : after (fun t => (t.written? 0x002, t.sp)) (step (atWord 0x010 0x7001 (fun s => (s.setSp 0x002).setReg .r1 0x77))) =
    some (some 0x77, 0x003) := by decide

theorem test_psh_wrap : after (fun t => (t.written? 0x3FF, t.sp)) (step (atWord 0x010 0x7007 (fun s => (s.setSp 0x3FF).setReg .r7 0x01))) =
    some (some 0x01, 0x000) := by decide

theorem test_pll : after (fun t => (t.reg .r1, t.sp)) (step (atWord 0x010 0x7900 (fun s => (s.setSp 0x003).setByte 0x002 0x77))) =
    some (0x77, 0x002) := by decide

theorem test_pll_wrap : after (fun t => (t.reg .r6, t.sp, t.pr)) (step (atWord 0x010 0x7E00 (fun s => s.setByte 0x3FF 0x09))) =
    some (0x09, 0x3FF, 0x0) := by decide

theorem test_jpa : after (fun t => (t.pc, t.sp)) (step (atWord 0x010 0xA923 (id))) =
    some (0x123, 0x000) := by decide

theorem test_jpa_self : after (fun t => t.pc) (step (atWord 0x010 0xA810 (id))) =
    some 0x010 := by decide

theorem test_bra_wraps_up : after (fun t => t.pc) (step (atWord 0x7F8 0xB078 (id))) =
    some 0x008 := by decide

theorem test_bra_wraps_down : after (fun t => t.pc) (step (atWord 0x003 0xB080 (id))) =
    some 0x7F4 := by decide

theorem test_brs_taken : after (fun t => t.pc) (step (atWord 0x006 0xBC0E (withScr 0b001000))) =
    some 0x008 := by decide

theorem test_brs_not_taken : after (fun t => t.pc) (step (atWord 0x004 0xB80E (id))) =
    some 0x005 := by decide

theorem test_brc_taken : after (fun t => t.pc) (step (atWord 0x010 0xC01F (withScr 0b010000))) =
    some 0x014 := by decide

theorem test_brc_not_taken : after (fun t => t.pc) (step (atWord 0x004 0xC0EC (withScr 0b010000))) =
    some 0x005 := by decide

theorem test_call : after (fun t => (t.pc, t.written? 0x010, t.written? 0x011, t.sp)) (step (atWord 0x5FE 0xCAA0 (fun s => s.setSp 0x010))) =
    some (0x2A0, some 0xFF, some 0x05, 0x012) := by decide

theorem test_call_wrap : after (fun t => (t.pc, t.written? 0x3FF, t.written? 0x000, t.sp)) (step (atWord 0x7FF 0xCFFF (fun s => s.setSp 0x3FF))) =
    some (0x7FF, some 0x00, some 0x00, 0x001) := by decide

theorem test_ret_high_bits_ignored : after (fun t => (t.pc, t.sp)) (step (atWord 0x2A3 0xD000 (fun s => ((s.setSp 0x012).setByte 0x010 0xFF).setByte 0x011 0xFD))) =
    some (0x5FF, 0x010) := by decide

theorem test_ret_wrap : after (fun t => (t.pc, t.sp)) (step (atWord 0x100 0xD000 (fun s => ((s.setSp 0x001).setByte 0x3FF 0x34).setByte 0x000 0x01))) =
    some (0x134, 0x3FF) := by decide

theorem test_nop_wrap : after (fun t => (t.pc, t.scr.bits)) (step (atWord 0x7FF 0x0000 (withScr 0b011111))) =
    some (0x000, 0b011111) := by decide

theorem test_res2 : after (fun t => (t.pc, t.scr.bits)) (step (atWord 0x010 0xE800 (withScr 0b011111))) =
    some (0x011, 0b011111) := by decide

theorem test_res3 : after (fun t => (t.pc, t.scr.bits)) (step (atWord 0x010 0xF000 (withScr 0b011111))) =
    some (0x011, 0b011111) := by decide

/-- Bits 7:6 are whatever they are; bits 5:0 for C=1 V=0 N=1 S=1 Z=0 P=0 are 0x0D. -/
theorem test_lcr : ∃ h : BitVec 2, after (fun t => (t.reg .r4, t.scr.bits))
      (step (atWord 0x010 0xDC00 (withScr 0b001101))) = some (h ++ 0b001101#6, 0b001101#6) :=
  ⟨Config.freeHighBits 0, rfl⟩

theorem test_stcr_sets_p : after (fun t => t.scr.bits) (step (atWord 0x010 0xE000 (fun s => (withScr 0b001101 s).setReg .r0 0x20))) =
    some 0b101101 := by decide

theorem test_stcr_status_protected : after (fun t => t.scr.bits) (step (atWord 0x010 0xE000 (fun s => s.setReg .r0 0xDF))) =
    some 0b000000 := by decide

/-- `stcr r0`, then `nop`: the page write is done before the `nop` (R36). -/
theorem test_page_write : after (fun t => (t.scr.p, t.pr, t.pc)) (step (atWord 0x011 0x0000
      (fun s => ((afterStcr s).setPr 0x3).setReg .r6 0xFA))) =
    some (false, 0xA, 0x012) := by decide

/-- P = 1 from RESET_SCR and no `stcr` before: the page write comes first (R11, R203), so `lcr` reads P = 0 and `st` the new
page. -/
theorem test_page_write_after_reset :
    (∃ h : BitVec 2, after (fun t => (t.reg .r4, t.pr))
      (step ((State.resetWith { scr := 0b100000 } {}).withFetchWord 16 0xDC00)) = some (h ++ 0#6, 0x0#4)) ∧
    after (fun t => (t.written? 0xA34, t.scr.p)) (step (atWord 0x010 0x91A1
      (fun s => ((withScr 0b100000 s).setReg .r6 0x0A).setReg .r1 0x5C))) = some (some 0x5C, false) :=
  ⟨⟨Config.freeHighBits 0, rfl⟩, by decide⟩

theorem test_hlt : after (fun t => (t.halted, t.pc)) (step (atWord 0x7FF 0xFFFF (id))) =
    some (true, 0x000) := by decide

/-- A halted machine takes no step, whatever word is placed. -/
theorem test_halted : step (atWord 0x000 0x0000 State.halt) = .fault .halted := rfl

/-- From reset, with nothing placed, the first fetch faults (log 13). -/
theorem test_reset_step : step State.reset = .fault (.programWordNotPlaced 0x000) := rfl

/-- The parameters are read: a return address with the high byte first, a signed offset, a relative base of 0, another
stack base. -/
theorem test_parameters :
    after (fun t => (t.written? 0x400, t.written? 0x401))
      (step (atWord 0x5FE 0xCAA0 (withCfg { retLowFirst := false, stackQuarter := 1 }))) = some (some 0x05, some 0xFF) ∧
    after (fun t => t.reg .r0)
      (step (atWord 0x010 0x8880 (fun s => (withCfg { zoffSigned := true } (s.setReg .r7 0x11)).setByte 0x001 0x07))) = some 0x07 ∧
    after (fun t => t.pc) (step (atWord 0x020 0xB0F8 (withCfg { pcRelBase := 0 }))) = some 0x01F := by decide

/-! ### Witnesses: every hypothesis of a statement met together, and its clauses at the ends of their ranges -/

/-- The parameters with two devices, at 0x000 and 0x3FF. -/
def devices : Config.Params := { deviceMap := [0x000, 0x3FF] }

/-- `StepRunsDecodedInstruction`, at the last program address. -/
theorem witness_StepRunsDecodedInstruction :
    let s := atWord 0x7FF 0x0902 id
    s.halted = false ∧ s.scr.p = false ∧ s.progWord? s.pc = some 0x0902 := by decide

/-- `StepWritesPageFirst`: right after a `stcr`, an instruction that reads `r6` but does not write it; and P = 1 with no
`stcr` before, an instruction of R227's list. -/
theorem witness_StepWritesPageFirst :
    (let s := atWord 0x010 0x6906 (afterStcr ∘ fun s => s.setReg .r6 0xFA)
     s.halted = false ∧ s.scr.p = true ∧ s.progWord? s.pc = some 0x6906 ∧
       (s.window = false ∨ windowHazard (decode 0x6906) = false)) ∧
    (let s := (State.resetWith { scr := 0b100000 } {}).withFetchWord 16 0x91A1
     s.halted = false ∧ s.scr.p = true ∧ s.progWord? s.pc = some 0x91A1 ∧
       (s.window = false ∨ windowHazard (decode 0x91A1) = false) ∧ windowHazard (decode 0x91A1) = true) := by decide

/-- `WindowPlacementsAgree`: an instruction that stores through the stack and one that only writes a register. -/
theorem witness_WindowPlacementsAgree :
    let s := afterStcr (State.reset.setReg .r6 0x0A)
    windowHazard (.call 0x2A0) = false ∧ windowHazard (.pll .r7) = false ∧ s.halted = false ∧ s.scr.p = true := by decide

/-- With no device in data memory a step in the window of a `stcr` answers a next state, whatever the free choice. -/
theorem window_step (s : State) (w : Word) (h : ∀ t : State, t.cfg = s.cfg → ∃ u, exec (decode w) t = .next u)
    (hh : s.halted = false) (hp : s.scr.p = true) (hw : s.progWord? s.pc = some w) : ∃ t, step s = .next t := by
  have key : step s = runWindow (decode w) (s.fetched w) := by
    simp [step, cycle, fetch, perform, hh, hw, State.fetched, hp]
  rw [key]
  rcases runWindow_cases (decode w) (s.fetched w) with ⟨-, e⟩ | ⟨-, -, e | ⟨c, e⟩⟩ <;> rw [e]
  · exact h _ rfl
  · exact h _ rfl
  · obtain ⟨u, hu⟩ := h (s.fetched w).drawn rfl
    exact ⟨_, by rw [hu, andThen_next]⟩

/-- `WindowHazardOutcomes`, once for each of its three clauses and for both values `stcr` can give P; the steps complete. -/
theorem witness_WindowHazardOutcomes_hlt :
    let s := atWord 0x010 0xF800 afterStcr
    s.halted = false ∧ s.scr.p = true ∧ s.window = true ∧ s.progWord? s.pc = some 0xF800 ∧
      windowHazard (decode 0xF800) = true ∧ decode 0xF800 = .hlt ∧ ∃ t, step s = .next t :=
  ⟨rfl, rfl, rfl, rfl, rfl, rfl, window_step _ 0xF800 (fun _ _ => ⟨_, rfl⟩) rfl rfl rfl⟩

theorem witness_WindowHazardOutcomes_stcr (x : Byte) (hx : x = 0x00 ∨ x = 0x20) :
    let s := atWord 0x010 0xE000 (afterStcr ∘ fun s => s.setReg .r0 x)
    s.halted = false ∧ s.scr.p = true ∧ s.window = true ∧ s.progWord? s.pc = some 0xE000 ∧
      windowHazard (decode 0xE000) = true ∧ decode 0xE000 = .stcr .r0 ∧ ∃ t, step s = .next t := by
  rcases hx with rfl | rfl <;>
    exact ⟨rfl, rfl, rfl, rfl, rfl, rfl, window_step _ 0xE000 (fun _ _ => ⟨_, rfl⟩) rfl rfl rfl⟩

/-- Its last clause: `ldi r6, 0x0A` writes the register the page write copies. -/
theorem witness_WindowHazardOutcomes_r6 :
    let s := atWord 0x010 0xA60A afterStcr
    s.halted = false ∧ s.scr.p = true ∧ s.window = true ∧ s.progWord? s.pc = some 0xA60A ∧
      windowHazard (decode 0xA60A) = true ∧ decode 0xA60A ≠ .hlt ∧ writesP (decode 0xA60A) = false ∧
      ∃ t, step s = .next t :=
  ⟨rfl, rfl, rfl, rfl, rfl, by decide, rfl, window_step _ 0xA60A (fun _ _ => ⟨_, rfl⟩) rfl rfl rfl⟩

/-- `PageSelectSequence`: `stcr r0` then `nop`, across the wrap of PC. -/
theorem witness_PageSelectSequence :
    let s := (atWord 0x7FF 0xE000 (fun s => (s.setReg .r0 0x20).setReg .r6 0xFA)).placeWord 0x000 0x0000
    s.halted = false ∧ s.scr.p = false ∧ s.progWord? s.pc = some 0xE000 ∧ decode 0xE000 = .stcr .r0 ∧
      (s.reg .r0).getLsbD 5 = true ∧ s.progWord? (s.pc + 1) = some 0x0000 ∧ windowHazard (decode 0x0000) = false := by
  decide

/-- `StepStops`: a halted machine; a word not placed beside one that is. -/
theorem witness_StepStops : (State.reset.halt).halted = true ∧
    (let s := (atWord 0x7FE 0x0000 id).setPc 0x7FF; s.halted = false ∧ s.progWord? s.pc = none) := by decide

/-- `SixteenBitAddition` and `SixteenBitSubtraction`: 0x01FF and 0x0101 in `r1`:`r0` and `r3`:`r2` (P5), and a low pair
that is one register. -/
theorem witness_SixteenBit : (Reg.r1 ≠ .r0 ∧ Reg.r3 ≠ .r0) ∧ (Reg.r1 ≠ .r0 ∧ Reg.r1 ≠ .r0) := by decide

/-- `PshEffect`, `CallEffect`: a slot below the wrap and the two that lie on both sides of it. -/
theorem witness_stack_slots :
    (let s := State.reset.setSp 0x3FF
     stk s.cfg s.sp ∉ s.cfg.deviceMap ∧ stk s.cfg (s.sp + 1) ∉ s.cfg.deviceMap) ∧
    (let s := withCfg devices (State.reset.setSp 0x001)
     stk s.cfg s.sp ∉ s.cfg.deviceMap ∧ stk s.cfg (s.sp + 1) ∉ s.cfg.deviceMap) := by decide

/-- `PllEffect`, `RetEffect`: SP 0 and SP 1, where the slots below wrap; with the byte `PllEffect` speaks of listed. -/
theorem witness_stack_slots_below :
    (let s := State.reset.setByte 0x3FF 0x09
     stk s.cfg (s.sp - 2) ∉ s.cfg.deviceMap ∧ stk s.cfg (s.sp - 1) ∉ s.cfg.deviceMap ∧
       s.written? (stk s.cfg (s.sp - 1)) = some 0x09) ∧
    (let s := withCfg devices (State.reset.setSp 0x003)
     stk s.cfg (s.sp - 2) ∉ s.cfg.deviceMap ∧ stk s.cfg (s.sp - 1) ∉ s.cfg.deviceMap) := by decide

/-- `StzEffect`, `LdzEffect`: base plus offset past the end of the page, with the byte listed. -/
theorem witness_zAddr :
    let s := withCfg devices (((State.reset.setPr 0xF).setReg .r7 0xF0).setByte 0xF0F 0x44)
    s.zAddr 31 ∉ s.cfg.deviceMap ∧ s.written? (s.zAddr 31) = some 0x44 := by decide

/-- `StEffect`, `LdEffect`: the last address of a page that holds a device at its end in another page. -/
theorem witness_dpage :
    let s := withCfg devices ((State.reset.setPr 0xF).setByte 0xFFF 0x12)
    s.pr ++ 0xFF#8 ∉ s.cfg.deviceMap ∧ s.written? (s.pr ++ 0xFF#8) = some 0x12 := by decide

/-- `EffectiveAddresses`: both readings of the offset, whose sums differ. -/
theorem witness_EffectiveAddresses :
    (let s := State.reset.setReg .r7 0xF0; s.cfg.zoffSigned = false ∧ s.zAddr 31 = 0x00F) ∧
    (let s := withCfg { zoffSigned := true } (State.reset.setReg .r7 0x00); s.cfg.zoffSigned = true ∧ s.zAddr 31 = 0x0FF) ∧
    (stk { stackQuarter := 3 } 0x3FF = 0xFFF ∧ stk { stackQuarter := 3 } 0x000 = 0xC00 ∧ stk {} 0x3FF = 0x3FF) := by decide

/-- `StoreByteReadBack`, at the last address, with another address to compare. -/
theorem witness_StoreByteReadBack :
    storeByte State.reset 0xFFF 0x12 = .next (State.reset.setByte 0xFFF 0x12) ∧ (0x000 : DataAddr) ≠ 0xFFF := by
  exact ⟨rfl, by decide⟩

/-- `PushThenPull`: another instruction has run in between. -/
theorem witness_PushThenPull :
    let s := (State.reset.setSp 0x3FF).setReg .r7 0x01
    let t := (s.setByte 0x3FF 0x01).setSp 0x000
    let u := t.setReg .r7 0x55
    exec (.psh .r7) s = .next t ∧ u.cfg = t.cfg ∧ u.sp = t.sp ∧
      u.written? (stk s.cfg s.sp) = t.written? (stk s.cfg s.sp) := by
  exact ⟨rfl, rfl, rfl, rfl⟩

/-- `StoreThenLoad`: stored by `st` and by `stz`, read back through either kind of address at the end of a page. -/
theorem witness_StoreThenLoad :
    let s := ((State.reset.setPr 0xA).setReg .r1 0x5C).setReg .r7 0xFF
    let t := s.setByte 0xAFF 0x5C
    let u := t.setReg .r7 0xE0
    exec (.st 0xFF .r1) s = .next t ∧ s.dpage 0xFF = 0xAFF ∧ exec (.stz 0 .r1) s = .next t ∧ s.zAddr 0 = 0xAFF ∧
      u.cfg = t.cfg ∧ u.written? 0xAFF = t.written? 0xAFF ∧ u.dpage 0xFF = 0xAFF ∧ u.zAddr 31 = 0xAFF := by
  refine ⟨rfl, ?_, rfl, ?_, rfl, rfl, ?_, ?_⟩ <;> decide

/-- `BraEffect`, `ConditionalBranchEffects`: the address of the branch, PC wrap included, and a condition of either value. -/
theorem witness_branches :
    (State.reset.setPc 0x000).pc = (0x7FF : ProgAddr) + 1 ∧
    condTrue (withScr 0b000001 State.reset).scr false .lt = true ∧ condTrue State.reset.scr false .lt = false := by decide

/-- `CallReturns`: a subroutine that has written a register, a byte of its own and PC. -/
theorem witness_CallReturns :
    let s := (State.reset.setSp 0x3FF).setPc 0x5FF
    let t := ((((s.setByte 0x3FF 0xFF).setByte 0x000 0x05).setSp 0x001).setPc 0x2A0)
    let u := ((t.setReg .r1 0x77).setByte 0x001 0x33).setPc 0x2A3
    exec (.call 0x2A0) s = .next t ∧ u.cfg = t.cfg ∧ u.sp = t.sp ∧
      u.written? (stk s.cfg s.sp) = t.written? (stk s.cfg s.sp) ∧
      u.written? (stk s.cfg (s.sp + 1)) = t.written? (stk s.cfg (s.sp + 1)) := by
  refine ⟨rfl, rfl, rfl, ?_, ?_⟩ <;> decide

/-- `NopEffect`: with and without a page write pending, at the last program address. -/
theorem witness_NopEffect :
    (let s := atWord 0x7FF 0x0000 afterStcr; s.halted = false ∧ s.progWord? s.pc = some 0x0000 ∧ s.scr.p = true) ∧
    (let s := atWord 0x7FF 0x0000 id; s.halted = false ∧ s.progWord? s.pc = some 0x0000 ∧ s.scr.p = false) := by decide

/-- The statements about every instruction that answers a next state (`OnlyPageWriteChangesPage`, `StatusBitsWriteProtected`,
`OnlyStcrSetsP`, `OnlyDestinationChanges`, `OnlyStoreAddressesChange`): `st` answers one, with a register it does not write,
an address it does not store to, and a device it does not reach. -/
theorem witness_exec_next :
    let s := withCfg devices ((State.reset.setPr 0xA).setReg .r1 0x5C)
    (∃ t, exec (.st 0x34 .r1) s = .next t) ∧ writesStatus (.st 0x34 .r1) = false ∧ writesP (.st 0x34 .r1) = false ∧
      destReg (.st 0x34 .r1) ≠ some .r1 ∧ 0xA35 ∉ storeAddrs (.st 0x34 .r1) s ∧ 0x3FF ∈ s.cfg.deviceMap := by
  refine ⟨⟨_, rfl⟩, ?_⟩
  decide

/-- The statements about every step (`OnlyPageWriteChangesPage`, `OnlyStcrSetsP`, `StackPointerMoves`, `SequentialFlow`):
a step at the last program address, no page write pending. -/
theorem witness_step_next :
    let s := atWord 0x7FF 0x7007 (fun s => s.setSp 0x3FF)
    (∃ t, step s = .next t) ∧ s.scr.p = false ∧ s.progWord? s.pc = some 0x7007 ∧ writesP (decode 0x7007) = false ∧
      decode 0x7007 ≠ .hlt ∧ writesPc (decode 0x7007) = false := by
  refine ⟨⟨_, rfl⟩, ?_⟩
  decide

/-- `ProgramAndParametersFixed`: a step of `hlt`, and its converse clause. -/
theorem witness_ProgramAndParametersFixed : ∃ t, step (atWord 0x005 0xF800 id) = .next t ∧ t.halted = true := ⟨_, rfl, rfl⟩

/-- `InstructionsComplete`: `call` and `ret` beside two devices they do not reach. -/
theorem witness_InstructionsComplete :
    let s := withCfg devices (State.reset.setSp 0x003)
    (∀ a ∈ storeAddrs (.call 0) s ++ loadAddrs (.call 0) s, a ∉ s.cfg.deviceMap) ∧
      (∀ a ∈ storeAddrs .ret s ++ loadAddrs .ret s, a ∉ s.cfg.deviceMap) :=
  ⟨List.all_iff_forall_prop.1 (by decide), List.all_iff_forall_prop.1 (by decide)⟩

/-- `DeviceAccessRefused`, clause by clause. -/
theorem witness_DeviceAccessRefused :
    (let s := withCfg devices State.reset
     stk s.cfg s.sp ∈ s.cfg.deviceMap ∧ stk s.cfg (s.sp - 1) ∈ s.cfg.deviceMap ∧ s.zAddr 0 ∈ s.cfg.deviceMap ∧
       s.dpage 0x00 ∈ s.cfg.deviceMap) ∧
    (let s := withCfg { deviceMap := [0x000] } (State.reset.setSp 0x3FF)
     stk s.cfg s.sp ∉ s.cfg.deviceMap ∧ stk s.cfg (s.sp + 1) ∈ s.cfg.deviceMap) ∧
    (let s := withCfg devices (State.reset.setSp 0x001); stk s.cfg (s.sp - 2) ∈ s.cfg.deviceMap) ∧
    (let s := withCfg { deviceMap := [0x000] } (State.reset.setSp 0x001)
     stk s.cfg (s.sp - 2) ∉ s.cfg.deviceMap ∧ stk s.cfg (s.sp - 1) ∈ s.cfg.deviceMap) := by decide

/-- `EveryStepCompletes`, with a page write pending and an instruction of R227's list. -/
theorem witness_EveryStepCompletes :
    let s := atWord 0x7FF 0xE000 afterStcr
    s.halted = false ∧ s.progWord? s.pc = some 0xE000 ∧ s.cfg.deviceMap = [] := by decide

/-- `StepKeepsInvariant`: a state with both memories in use that meets the invariant and takes a step. -/
theorem witness_StepKeepsInvariant :
    let s := atWord 0x7FF 0x7007 (fun s => (s.setSp 0x3FF).setByte 0x3FE 0x01)
    s.Inv ∧ ∃ t, step s = .next t :=
  ⟨⟨by decide, by decide, by decide, by decide, by decide⟩, _, rfl⟩

/-- `ResetMeetsInvariant`: reset values whose status bits agree. -/
theorem witness_ResetMeetsInvariant :
    let rv : Config.ResetValues := { scr := 0b001101 }
    rv.scr.getLsbD 3 = (rv.scr.getLsbD 2 ^^ rv.scr.getLsbD 1) ∧ (rv.scr.getLsbD 4 = true → rv.scr.getLsbD 2 = false) := by
  decide

end Sys2Proof.Tests
end

section
/-! PROOF. The effective addresses as numbers (20_memory.md section 3) and the step with no page write pending
(00_scope.md R11), with the lemmas both rest on. -/

namespace Sys2Proof.Machine

/-! ### Paged and indirect addresses (R55, R57; D5) -/

/-- Concatenation puts the first operand above the second. -/
theorem toNat_append_eq_add {m n : Nat} (x : BitVec m) (y : BitVec n) :
    (x ++ y).toNat = 2 ^ n * x.toNat + y.toNat := by
  rw [BitVec.toNat_append, ← Nat.shiftLeft_add_eq_or_of_lt y.isLt, Nat.shiftLeft_eq, Nat.mul_comm]

theorem State.dpage_toNat (s : State) (a8 : BitVec 8) : (s.dpage a8).toNat = 256 * s.pr.toNat + a8.toNat :=
  toNat_append_eq_add s.pr a8

theorem State.dpage_toNat_div (s : State) (a8 : BitVec 8) : (s.dpage a8).toNat / 256 = s.pr.toNat := by
  rw [s.dpage_toNat]
  omega

theorem State.dpage_toNat_mod (s : State) (a8 : BitVec 8) : (s.dpage a8).toNat % 256 = a8.toNat := by
  rw [s.dpage_toNat]
  omega

theorem zOffset_toNat {cfg : Config.Params} (h : cfg.zoffSigned = false) (off : Offset) :
    (zOffset cfg off).toNat = off.toNat := by
  simp only [zOffset, h, Bool.false_eq_true, if_false]
  exact BitVec.toNat_setWidth_of_le (by decide)

theorem zOffset_toInt {cfg : Config.Params} (h : cfg.zoffSigned = true) (off : Offset) :
    (zOffset cfg off).toInt = off.toInt := by
  simp only [zOffset, h, if_true]
  exact BitVec.toInt_signExtend_of_le (by decide)

/-- A byte and its signed value agree modulo 256. -/
theorem byte_toInt_emod (b : Byte) : b.toInt % 256 = (b.toNat : Int) % 256 := by
  rw [BitVec.toInt_eq_toNat_bmod]
  exact Int.bmod_emod

/-- The low byte of the indirect address, the offset read as unsigned. -/
theorem State.zAddr_toNat_mod {s : State} (h : s.cfg.zoffSigned = false) (off : Offset) :
    (s.zAddr off).toNat % 256 = ((s.reg .r7).toNat + off.toNat) % 256 := by
  rw [State.zAddr, State.dpage_toNat_mod, BitVec.toNat_add, zOffset_toNat h]

/-- The low byte of the indirect address, the offset read as signed. -/
theorem State.zAddr_toInt_mod {s : State} (h : s.cfg.zoffSigned = true) (off : Offset) :
    ((s.zAddr off).toNat : Int) % 256 = ((s.reg .r7).toNat + off.toInt) % 256 := by
  have hlow := s.dpage_toNat_mod (s.reg .r7 + zOffset s.cfg off)
  have hsum := BitVec.toNat_add (s.reg .r7) (zOffset s.cfg off)
  have hoff := byte_toInt_emod (zOffset s.cfg off)
  rw [zOffset_toInt h] at hoff
  rw [State.zAddr]
  omega

/-! ### Stack addresses (R58; D6) -/

theorem stackBase_toNat (cfg : Config.Params) : (stackBase cfg).toNat = 1024 * cfg.stackQuarter.toNat :=
  toNat_append_eq_add cfg.stackQuarter 0#10

/-- The base is a multiple of 1024 and a slot is below 1024, so their sum does not wrap. -/
theorem stk_toNat (cfg : Config.Params) (p : StackPtr) :
    (stk cfg p).toNat = (stackBase cfg).toNat + p.toNat := by
  have hp : (p.zeroExtend 12).toNat = p.toNat := BitVec.toNat_setWidth_of_le (by decide)
  have hbase := stackBase_toNat cfg
  rw [stk, BitVec.toNat_add_of_lt (by omega), hp]

theorem stk_injective (cfg : Config.Params) : Function.Injective (stk cfg) := by
  intro p q h
  have hnat : (stackBase cfg).toNat + p.toNat = (stackBase cfg).toNat + q.toNat := by
    rw [← stk_toNat, ← stk_toNat, h]
  exact BitVec.eq_of_toNat_eq (Nat.add_left_cancel hnat)

/-- Settles O30: each address form is read off from its lemma above. -/
theorem effectiveAddresses : Obligations.EffectiveAddresses := by
  intro s
  refine ⟨s.dpage_toNat, fun off => ⟨s.dpage_toNat_div _, fun h => State.zAddr_toNat_mod h off,
    fun h => State.zAddr_toInt_mod h off⟩, stackBase_toNat s.cfg, stk_toNat s.cfg, fun p q h => stk_injective s.cfg h⟩

/-! ### A step at a placed word (R11; D2, D4) -/

theorem fetch_of_placed {s : State} {w : Word} (hw : s.progWord? s.pc = some w) : fetch s = .next (s.fetched w) :=
  fetch_eq_next.2 ⟨w, hw, rfl⟩

/-- A machine that runs, at a placed word, performs that word on the state the fetch leaves; stops included. -/
theorem step_of_placed {s : State} {w : Word} (hh : s.halted = false) (hw : s.progWord? s.pc = some w) :
    step s = perform (s.fetched w) := by
  simp [step, cycle, hh, fetch_of_placed hw]

theorem perform_of_no_pageWrite {s : State} (hp : s.scr.p = false) : perform s = exec (decode s.ir) s := by
  simp [perform, hp]

/-- Settles O6: the fetch leaves P as it is, so nothing but the decoded instruction runs after it. -/
theorem stepRunsDecodedInstruction : Obligations.StepRunsDecodedInstruction := by
  intro s w hh hp hw
  calc step s = perform (s.fetched w) := step_of_placed hh hw
    _ = exec (decode w) (s.fetched w) := perform_of_no_pageWrite hp

end Sys2Proof.Machine
end

section
/-! PROOF. What an instruction can change of the state, the split over the 32 instructions made once. -/

namespace Sys2Proof.Machine

/-! ### The effect, and the shapes an instruction's next state has -/

/-- What running instruction `i` from `s` to `t` can change, field by field and by the classes of `Safety`; PC in `s` is A + 1,
the fetch having advanced it. A field with a default proof may be left out where the instruction does not touch it. -/
structure ExecEffect (i : Instr) (s t : State) : Prop where
  reg : ∀ r, destReg i ≠ some r → t.reg r = s.reg r := by intros; rfl
  status : writesStatus i = false → SameStatus s.scr t.scr
  flags : writesStatus i = true → ∃ c v r, t.scr = setFlags s.scr c v r
  page : writesP i = false → t.scr.p = s.scr.p ∧ t.window = s.window
  request : writesP i = true → t.window = t.scr.p
  pc : writesPc i = false → t.pc = s.pc := by intros; rfl
  sp : t.sp = s.sp + spChange i
  halted : i ≠ .hlt → t.halted = s.halted := by intros; rfl
  data : Memory.wf 4096 s.dmem → Memory.wf 4096 t.dmem := by exact id
  pr : t.pr = s.pr := by rfl
  pmem : t.pmem = s.pmem := by rfl
  cfg : t.cfg = s.cfg := by rfl

theorem SameStatus.refl (x : Scr) : SameStatus x x := ⟨rfl, rfl, rfl, rfl, rfl⟩

theorem SameStatus.with_p (x : Scr) (b : Bool) : SameStatus x { x with p := b } := ⟨rfl, rfl, rfl, rfl, rfl⟩

/-- The arithmetic-logic and shift instructions: a result to `rd` and the five status bits, a free value drawn or not. -/
theorem ExecEffect.of_aluWrite {i : Instr} {s : State} {rd : Reg} {c v : Bool} {r : Byte} {n : Nat}
    (hstatus : writesStatus i = true) (hdest : destReg i = some rd) (hp : writesP i = false) (hsp : spChange i = 0) :
    ExecEffect i s { s.aluWrite rd c v r with draws := n } where
  reg q hq := State.setReg_reg_other s r fun h => hq (h ▸ hdest)
  status h := by simp [hstatus] at h
  flags _ := ⟨c, v, r, rfl⟩
  page _ := ⟨rfl, rfl⟩
  request h := by simp [hp] at h
  sp := by simp [State.aluWrite, hsp]

/-- The moves, loads and `lcr`: a byte to `rd`, and SP where the instruction pulls. -/
theorem ExecEffect.of_setReg {i : Instr} {s : State} {rd : Reg} {v : Byte} {p : StackPtr} {n : Nat}
    (hdest : destReg i = some rd) (hstatus : writesStatus i = false) (hp : writesP i = false)
    (hsp : p = s.sp + spChange i) : ExecEffect i s { s.setReg rd v with sp := p, draws := n } where
  reg q hq := State.setReg_reg_other s v fun h => hq (h ▸ hdest)
  status _ := .refl _
  flags h := by simp [hstatus] at h
  page _ := ⟨rfl, rfl⟩
  request h := by simp [hp] at h
  sp := hsp

/-- The instructions that write neither a register nor SCR: what they store, where they go and what SP becomes. -/
theorem ExecEffect.of_memory {i : Instr} {s : State} {m : List Host.Cell} {a : ProgAddr} {p : StackPtr}
    (hstatus : writesStatus i = false) (hp : writesP i = false) (hpc : writesPc i = false → a = s.pc)
    (hsp : p = s.sp + spChange i) (hm : Memory.wf 4096 s.dmem → Memory.wf 4096 m) :
    ExecEffect i s { s with dmem := m, pc := a, sp := p } where
  status _ := .refl _
  flags h := by simp [hstatus] at h
  page _ := ⟨rfl, rfl⟩
  request h := by simp [hp] at h
  pc := hpc
  sp := hsp
  data := hm

theorem ExecEffect.of_stcr (rs : Reg) (s : State) (b : Bool) : ExecEffect (.stcr rs) s (s.setP b) where
  status _ := .with_p _ _
  flags := nofun
  page := nofun
  request _ := rfl
  sp := (BitVec.add_zero _).symm

theorem ExecEffect.of_hlt (s : State) : ExecEffect .hlt s s.halt where
  status _ := .refl _
  flags := nofun
  page _ := ⟨rfl, rfl⟩
  request := nofun
  sp := (BitVec.add_zero _).symm
  halted h := absurd rfl h

/-! ### Every instruction -/

/-- What `call` can change: two stores, SP, PC. -/
theorem execCall_effect {target : ProgAddr} {s t : State} (h : execCall target s = .next t) :
    ExecEffect (.call target) s t := by
  obtain ⟨u, hu, h⟩ := andThen_eq_next.1 h
  obtain ⟨-, rfl⟩ := storeByte_eq_next.1 hu
  obtain ⟨v, hv, h⟩ := andThen_eq_next.1 h
  obtain ⟨-, rfl⟩ := storeByte_eq_next.1 hv
  obtain rfl := Host.Outcome.next.inj h
  exact .of_memory rfl rfl nofun rfl fun hs => State.setByte_wf _ _ (State.setByte_wf _ _ hs)

/-- What any instruction can change: each has one of the shapes above. -/
theorem exec_effect {i : Instr} {s t : State} (h : exec i s = .next t) : ExecEffect i s t := by
  have keep : s.sp = s.sp + 0 := (BitVec.add_zero _).symm
  cases i with
  | add rd rs | addc rd rs | sub rd rs | subc rd rs | inc rd | dec rd
  | and rd rs | or rd rs | xor rd rs | not rd | sll rd | slr rd =>
    obtain rfl := Host.Outcome.next.inj h
    exact .of_aluWrite rfl rfl rfl rfl
  | mov rd rs | ldi rd data | lcr rd =>
    obtain rfl := Host.Outcome.next.inj h
    exact .of_setReg rfl rfl rfl keep
  | ldz rd off | ld rd addr =>
    simp only [exec, execLdz, execLd, loadByte_eq_next] at h
    obtain rfl := Host.Outcome.next.inj h.2
    exact .of_setReg rfl rfl rfl keep
  | pll rd =>
    simp only [exec, execPll, loadByte_eq_next] at h
    obtain rfl := Host.Outcome.next.inj h.2
    exact .of_setReg rfl rfl rfl (BitVec.sub_eq_add_neg s.sp 1)
  | nop | res2 | res3 =>
    obtain rfl := Host.Outcome.next.inj h
    exact .of_memory rfl rfl (fun _ => rfl) keep id
  | jpa target | bra off =>
    obtain rfl := Host.Outcome.next.inj h
    exact .of_memory rfl rfl nofun keep id
  | brs sf off cc | brc sf off cc =>
    obtain rfl := Host.Outcome.next.inj h
    split <;> exact .of_memory rfl rfl nofun keep id
  | stz off rs | st addr rs =>
    obtain ⟨-, rfl⟩ := storeByte_eq_next.1 h
    exact .of_memory rfl rfl (fun _ => rfl) keep (State.setByte_wf _ _)
  | psh rs =>
    obtain ⟨u, hu, h⟩ := andThen_eq_next.1 h
    obtain ⟨-, rfl⟩ := storeByte_eq_next.1 hu
    obtain rfl := Host.Outcome.next.inj h
    exact .of_memory rfl rfl (fun _ => rfl) rfl (State.setByte_wf _ _)
  | call target => exact execCall_effect h
  | ret =>
    simp only [exec, execRet, loadByte_eq_next] at h
    obtain rfl := Host.Outcome.next.inj h.2.2
    exact .of_memory rfl rfl nofun (BitVec.sub_eq_add_neg s.sp 2) id
  | stcr rs =>
    obtain rfl := Host.Outcome.next.inj h
    exact .of_stcr rs s _
  | hlt =>
    obtain rfl := Host.Outcome.next.inj h
    exact .of_hlt s

end Sys2Proof.Machine
end

section
/-! PROOF. The state the programmer sees (10_state.md): what one instruction and one step leave of it, the page write, the
stops, the invariant, and reset. -/

namespace Sys2Proof.Machine

/-! ### One instruction (R31, R34, R37; D8) -/

/-- `stcr` is on R227's list. -/
theorem writesP_of_windowHazard {i : Instr} (h : windowHazard i = false) : writesP i = false := by
  cases i with
  | stcr rs => exact h
  | _ => rfl

/-- An instruction that answers a next state keeps the window open at most while P = 1. -/
theorem exec_window {i : Instr} {s t : State} (hs : s.window = true → s.scr.p = true) (h : exec i s = .next t) :
    t.window = true → t.scr.p = true := by
  have eff := exec_effect h
  cases hi : writesP i
  · obtain ⟨hp, hw⟩ := eff.page hi
    rwa [hp, hw]
  · rw [eff.request hi]
    exact id

/-- Settles O47: both clauses are the effect on the status bits, `stcr` being outside the twelve. -/
theorem statusBitsWriteProtected : Obligations.StatusBitsWriteProtected :=
  ⟨fun _ _ _ h => (exec_effect h).status rfl, fun _ _ _ hi h => (exec_effect h).status hi⟩

/-- Settles O49, by the effect on the registers. -/
theorem onlyDestinationChanges : Obligations.OnlyDestinationChanges :=
  fun _ _ _ r h hr => (exec_effect h).reg r hr

/-! ### One step: SP, PC, PR and P -/

theorem lateWrite_sp (c : Config.WindowChoice) (i : Instr) (s t : State) : (lateWrite c i s t).sp = t.sp := by
  rw [lateWrite_eq]

theorem lateWrite_pc (c : Config.WindowChoice) (i : Instr) (s t : State) : (lateWrite c i s t).pc = t.pc := by
  rw [lateWrite_eq]

/-- A late page write clears P, unless the machine has halted or the instruction was a `stcr`. -/
theorem lateWrite_p {c : Config.WindowChoice} {i : Instr} {s t : State} (hi : writesP i = false)
    (ht : t.halted = false) : (lateWrite c i s t).scr.p = false := by
  simp [lateWrite, hi, ht]

theorem lateWrite_window {c : Config.WindowChoice} {i : Instr} {s t : State} (ht : t.window = true → t.scr.p = true) :
    (lateWrite c i s t).window = true → (lateWrite c i s t).scr.p = true := by
  unfold lateWrite
  split
  · exact ht
  · split <;> exact id

/-- A step of the word at PC executes it from a state with the old SP and PC advanced by one, and the page write, wherever it
comes, leaves SP and PC as the instruction does. -/
theorem step_exec {s t : State} {w : Word} (hw : s.progWord? s.pc = some w) (h : step s = .next t) :
    ∃ u v, exec (decode w) u = .next v ∧ u.sp = s.sp ∧ u.pc = s.pc + 1 ∧ t.sp = v.sp ∧ t.pc = v.pc := by
  obtain ⟨w', -, hw', hcases⟩ := step_cases h
  obtain rfl := Option.some.inj (hw.symm.trans hw')
  obtain ⟨-, he⟩ | ⟨-, -, he⟩ | ⟨-, -, -, he⟩ | ⟨-, -, -, c, u, he, rfl⟩ := hcases
  · exact ⟨_, t, he, rfl, rfl, rfl, rfl⟩
  · exact ⟨_, t, he, rfl, rfl, rfl, rfl⟩
  · exact ⟨_, t, he, rfl, rfl, rfl, rfl⟩
  · exact ⟨_, u, he, rfl, rfl, lateWrite_sp .., lateWrite_pc ..⟩

/-- Settles O51: only the instruction moves SP, wherever the page write comes. -/
theorem stackPointerMoves : Obligations.StackPointerMoves := by
  intro s t w hw h
  obtain ⟨u, v, he, hsp, -, hsp', -⟩ := step_exec hw h
  rw [hsp', (exec_effect he).sp, hsp]

/-- Settles O52: the fetch advances PC and the instruction keeps it. -/
theorem sequentialFlow : Obligations.SequentialFlow := by
  intro s t w hw h hpc
  obtain ⟨u, v, he, -, hu, -, hv⟩ := step_exec hw h
  rw [hv, (exec_effect he).pc hpc, hu, BitVec.toNat_add]
  rfl

/-- Settles O46: with P = 0 a step is one instruction after the fetch, and neither writes PR. -/
theorem onlyPageWriteChangesPage : Obligations.OnlyPageWriteChangesPage := by
  refine ⟨fun i s t h => (exec_effect h).pr, fun s t h hp => ?_⟩
  obtain ⟨w, hh, hw, -⟩ := step_cases h
  rw [stepRunsDecodedInstruction s w hh hp hw] at h
  exact (exec_effect h).pr

/-- Settles O48: P was 0 already, or the page write clears it before the instruction, or after one that did not halt. -/
theorem onlyStcrSetsP : Obligations.OnlyStcrSetsP := by
  refine ⟨fun i s t hi h => ((exec_effect h).page hi).1, fun s t w hw hi hhlt h => ?_⟩
  obtain ⟨w', hh, hw', hcases⟩ := step_cases h
  obtain rfl := Option.some.inj (hw.symm.trans hw')
  obtain ⟨hp, he⟩ | ⟨-, -, he⟩ | ⟨-, -, -, he⟩ | ⟨-, -, -, c, u, he, rfl⟩ := hcases
  · exact ((exec_effect he).page hi).1.trans hp
  · exact ((exec_effect he).page hi).1
  · exact ((exec_effect he).page hi).1
  · exact lateWrite_p hi (((exec_effect he).halted hhlt).trans hh)

/-! ### The page write before the instruction (R36, R203; D13) -/

theorem perform_of_pageWrite {s : State} (hp : s.scr.p = true)
    (hz : s.window = false ∨ windowHazard (decode s.ir) = false) : perform s = exec (decode s.ir) s.pageWrite := by
  rw [perform, if_pos hp, runWindow, if_neg (by simpa [Decidable.or_iff_not_imp_left] using hz)]

/-- Settles O7: the fetch and the page write touch different fields, so their states are one. -/
theorem stepWritesPageFirst : Obligations.StepWritesPageFirst := by
  intro s w hh hp hw hz
  calc step s = perform (s.fetched w) := step_of_placed hh hw
    _ = exec (decode w) (s.fetched w).pageWrite := perform_of_pageWrite hp hz

/-- Settles O10: `stcr` opens the window, and an instruction R227 admits runs after the page write and writes neither PR nor P. -/
theorem pageSelectSequence : Obligations.PageSelectSequence := by
  intro s w₁ w₂ rs hh hp hw₁ hstcr hbit hw₂ hz
  have hfirst : step s = .next ((s.fetched w₁).setP true) := by
    rw [stepRunsDecodedInstruction s w₁ hh hp hw₁, hstcr, ← hbit]
    rfl
  refine ⟨_, hfirst, rfl, rfl, fun u hu => ?_⟩
  rw [stepWritesPageFirst ((s.fetched w₁).setP true) w₂ hh rfl hw₂ (.inr hz)] at hu
  exact ⟨(exec_effect hu).pr, ((exec_effect hu).page (writesP_of_windowHazard hz)).1⟩

/-! ### Where a step stops, and IR (R29, R39, R51; D25) -/

/-- Settles O11, by the two stops of `step` before an instruction runs. -/
theorem stepStops : Obligations.StepStops := by
  refine ⟨fun s hh => if_pos hh, fun s hh hw => ?_⟩
  simp [step, cycle, fetch, hh, hw]

theorem fetch_setIr (s : State) (w : Word) : fetch (s.setIr w) = fetch s := rfl

/-- Settles O54: the fetch overwrites IR before anything reads it. -/
theorem instructionRegisterUnobservable : Obligations.InstructionRegisterUnobservable := by
  intro s w
  change step (s.setIr w) = step s
  unfold step cycle
  rw [fetch_setIr, State.setIr_halted]

/-! ### The invariant (R32, R36, R50; D12) -/

/-- The invariant reads the two memories, SCR and the window mark, and nothing else. -/
theorem State.Inv.congr {s t : State} (h : s.Inv) (hd : t.dmem = s.dmem) (hm : t.pmem = s.pmem)
    (hscr : SameStatus s.scr t.scr) (hw : t.window = true → t.scr.p = true) : t.Inv where
  data := hd ▸ h.data
  prog := hm ▸ h.prog
  sign := by rw [hscr.s, hscr.n, hscr.v, h.sign]
  zero := by rw [hscr.z, hscr.n]; exact h.zero
  window := hw

theorem State.Inv.fetched {s : State} (h : s.Inv) (w : Word) : (s.fetched w).Inv :=
  h.congr rfl rfl (.refl _) h.window

theorem State.Inv.drawn {s : State} (h : s.Inv) : s.drawn.Inv :=
  h.congr rfl rfl (.refl _) h.window

theorem State.Inv.pageWrite {s : State} (h : s.Inv) : s.pageWrite.Inv :=
  h.congr rfl rfl (.with_p _ _) nofun

theorem State.Inv.lateWrite {s t : State} (h : t.Inv) (c : Config.WindowChoice) (i : Instr) :
    (lateWrite c i s t).Inv := by
  refine h.congr (by rw [lateWrite_eq]) (by rw [lateWrite_eq]) ?_ (lateWrite_window h.window)
  rw [lateWrite_eq]
  exact .with_p _ _

/-- A result of 0 is not negative. -/
theorem setFlags_zero {x : Scr} {c v : Bool} {r : Byte} (h : (setFlags x c v r).z = true) :
    (setFlags x c v r).n = false := by
  obtain rfl : r = 0x00 := by simpa [setFlags] using h
  rfl

theorem State.Inv.exec {i : Instr} {s t : State} (h : s.Inv) (he : exec i s = .next t) : t.Inv := by
  have eff := exec_effect he
  have hsign : t.scr.s = (t.scr.n ^^ t.scr.v) ∧ (t.scr.z = true → t.scr.n = false) := by
    cases hi : writesStatus i
    · obtain ⟨-, hv, hn, hs, hz⟩ := eff.status hi
      rw [hv, hn, hs, hz]
      exact ⟨h.sign, h.zero⟩
    · obtain ⟨c, v, r, hscr⟩ := eff.flags hi
      rw [hscr]
      exact ⟨rfl, setFlags_zero⟩
  exact ⟨eff.data h.data, eff.pmem ▸ h.prog, hsign.1, hsign.2, exec_window h.window he⟩

/-- Settles O58: fetch, draw, page write, instruction and late page write each keep the invariant, and a step is made of them. -/
theorem stepKeepsInvariant : Obligations.StepKeepsInvariant := by
  intro s t hs h
  obtain ⟨w, -, -, hcases⟩ := step_cases h
  obtain ⟨-, he⟩ | ⟨-, -, he⟩ | ⟨-, -, -, he⟩ | ⟨-, -, -, c, u, he, rfl⟩ := hcases
  · exact (hs.fetched w).exec he
  · exact (hs.fetched w).pageWrite.exec he
  · exact (hs.fetched w).drawn.pageWrite.exec he
  · exact ((hs.fetched w).drawn.exec he).lateWrite c _

/-! ### Reset (R41; D12, D15) -/

theorem Scr.bits_ofBits (b : BitVec 6) : (Scr.ofBits b).bits = b := by
  revert b
  decide

theorem State.resetWith_inv {rv : Config.ResetValues} (cfg : Config.Params)
    (hsign : rv.scr.getLsbD 3 = (rv.scr.getLsbD 2 ^^ rv.scr.getLsbD 1))
    (hzero : rv.scr.getLsbD 4 = true → rv.scr.getLsbD 2 = false) : (State.resetWith rv cfg).Inv :=
  have ⟨hdata, hprog⟩ := State.resetWith_wf rv cfg
  ⟨hdata, hprog, hsign, hzero, nofun⟩

/-- Settles O59; the default status bits are all 0. -/
theorem resetMeetsInvariant : Obligations.ResetMeetsInvariant :=
  ⟨State.resetWith_inv {} (by decide) (by decide), fun _ cfg => State.resetWith_inv cfg⟩

/-- Settles O60; SCR alone is stored in another form than it is given in. -/
theorem resetValuesOfSpec : Obligations.ResetValuesOfSpec :=
  ⟨fun rv _ => ⟨rfl, rfl, Scr.bits_ofBits rv.scr, rfl, rfl, rfl, rfl, fun _ => rfl, fun _ => rfl⟩,
    rfl, rfl, Scr.bits_ofBits 0, rfl⟩

end Sys2Proof.Machine
end

section
/-! PROOF. The memories (20_memory.md): what a data write leaves, where an instruction may store, what no step writes, and
the refusal of a device address. -/

namespace Sys2Proof.Machine

/-! ### A device address is refused (R53, U15; D19) -/

/-- An instruction that starts with a store to a device ends there, whatever it would do next. -/
theorem andThen_storeByte_device {s : State} {a : DataAddr} (v : Byte) (k : State → Result)
    (h : a ∈ s.cfg.deviceMap) : andThen (storeByte s a v) k = .refused (.dataDevice a) := by
  rw [storeByte_device v h, andThen_refused]

theorem execCall_second_device {target : ProgAddr} {s : State} (hfirst : stk s.cfg s.sp ∉ s.cfg.deviceMap)
    (hsecond : stk s.cfg (s.sp + 1) ∈ s.cfg.deviceMap) :
    execCall target s = .refused (.dataDevice (stk s.cfg (s.sp + 1))) := by
  rw [execCall, storeByte_plain _ hfirst, andThen_next]
  exact andThen_storeByte_device _ _ hsecond

theorem execRet_second_device {s : State} (hfirst : stk s.cfg (s.sp - 2) ∉ s.cfg.deviceMap)
    (hsecond : stk s.cfg (s.sp - 1) ∈ s.cfg.deviceMap) :
    execRet s = .refused (.dataDevice (stk s.cfg (s.sp - 1))) := by
  rw [execRet, loadByte_plain _ hfirst, loadByte_device _ hsecond]

/-- Settles O56: every access goes through `storeByte` or `loadByte`, and each refuses a device by name. -/
theorem deviceAccessRefused : Obligations.DeviceAccessRefused := by
  intro s rd rs off a8 target
  refine ⟨fun h => ⟨?psh, ?call⟩, execCall_second_device, fun h => ?pll, fun h => ?ret, execRet_second_device,
    fun h => ⟨?stz, ?ldz⟩, fun h => ⟨?st, ?ld⟩⟩
  case psh | call => exact andThen_storeByte_device _ _ h
  case stz | st => exact storeByte_device _ h
  case pll | ldz | ld | ret => simp only [exec, execPll, execLdz, execLd, execRet, loadByte_device _ h]

/-! ### Data memory (R52, R53, R149; D5, D6, D19) -/

/-- What a byte reads as depends on what was written to it alone. -/
theorem State.dataByte_congr {s t : State} {a : DataAddr} (h : t.written? a = s.written? a) :
    t.dataByte a = s.dataByte a := by
  rw [State.dataByte, State.dataByte, h]

theorem State.setByte_written?_other (s : State) {a b : DataAddr} (v : Byte) (h : b ≠ a) :
    (s.setByte a v).written? b = s.written? b := by
  rw [State.setByte_written?, if_neg h]

/-- Settles O31: a write that is not refused is `setByte`. -/
theorem storeByteReadBack : Obligations.StoreByteReadBack := by
  intro s t a v h
  obtain ⟨-, rfl⟩ := storeByte_eq_next.1 h
  refine ⟨by rw [State.setByte_dataByte, if_pos rfl], fun b hb => ?_, rfl⟩
  have hkeep := s.setByte_written?_other v hb
  exact ⟨hkeep, State.dataByte_congr hkeep⟩

/-- A store to one of the addresses `l` changes no byte outside them, and no device byte, being refused there. -/
theorem storeByte_keeps {s t : State} {a b : DataAddr} {v : Byte} {l : List DataAddr}
    (h : storeByte s b v = .next t) (hb : b ∈ l) (ha : a ∉ l ∨ a ∈ s.cfg.deviceMap) :
    t.written? a = s.written? a := by
  obtain ⟨hplain, rfl⟩ := storeByte_eq_next.1 h
  refine s.setByte_written?_other v ?_
  rintro rfl
  exact ha.elim (· hb) hplain

/-- The two stores of `call`, one after the other. -/
theorem execCall_keeps {target : ProgAddr} {s t : State} {a : DataAddr} (h : execCall target s = .next t)
    (ha : a ∉ storeAddrs (.call target) s ∨ a ∈ s.cfg.deviceMap) : t.written? a = s.written? a := by
  obtain ⟨u, hu, h⟩ := andThen_eq_next.1 h
  obtain ⟨v, hv, h⟩ := andThen_eq_next.1 h
  obtain rfl := Host.Outcome.next.inj h
  have hcfg : u.cfg = s.cfg := by
    obtain ⟨-, rfl⟩ := storeByte_eq_next.1 hu
    rfl
  calc v.written? a = u.written? a := storeByte_keeps hv (by simp [storeAddrs]) (hcfg ▸ ha)
    _ = s.written? a := storeByte_keeps hu (by simp [storeAddrs]) ha

/-- An instruction writes only where it stores: four forms store, the others leave data memory as it is. -/
theorem exec_keeps {i : Instr} {s t : State} {a : DataAddr} (h : exec i s = .next t)
    (ha : a ∉ storeAddrs i s ∨ a ∈ s.cfg.deviceMap) : t.written? a = s.written? a := by
  cases i with
  | psh rs =>
    obtain ⟨u, hu, h⟩ := andThen_eq_next.1 h
    obtain rfl := Host.Outcome.next.inj h
    rw [State.setSp_written?]
    exact storeByte_keeps hu List.mem_cons_self ha
  | stz off rs | st addr rs => exact storeByte_keeps h List.mem_cons_self ha
  | call target => exact execCall_keeps h ha
  | pll rd | ldz rd off | ld rd addr =>
    simp only [exec, execPll, execLdz, execLd, loadByte_eq_next, Host.Outcome.next.injEq] at h
    obtain ⟨-, rfl⟩ := h
    rfl
  | ret =>
    simp only [exec, execRet, loadByte_eq_next, Host.Outcome.next.injEq] at h
    obtain ⟨-, -, rfl⟩ := h
    rfl
  | brs sf off cc | brc sf off cc =>
    obtain rfl := Host.Outcome.next.inj h
    split <;> rfl
  | _ =>
    obtain rfl := Host.Outcome.next.inj h
    rfl

/-- Settles O50: what is not written to reads as before. -/
theorem onlyStoreAddressesChange : Obligations.OnlyStoreAddressesChange :=
  fun _ _ _ _ h ha => ⟨exec_keeps h ha, State.dataByte_congr (exec_keeps h ha)⟩

/-! ### Program memory, the parameters and the halt state (R39, R51, R67; D17, D19) -/

/-- The three things only the environment or `hlt` changes. -/
structure SameFixed (s t : State) : Prop where
  pmem : t.pmem = s.pmem
  cfg : t.cfg = s.cfg
  halted : t.halted = s.halted

theorem lateWrite_sameFixed (c : Config.WindowChoice) (i : Instr) (s t : State) : SameFixed t (lateWrite c i s t) := by
  rw [lateWrite_eq]
  exact ⟨rfl, rfl, rfl⟩

/-- A step is the execution of a placed word with the fetch, the draw and the page write around it, none of which touches the
program, the parameters or the halt state. -/
theorem step_exec_sameFixed {s t : State} (h : step s = .next t) :
    ∃ w u v, s.halted = false ∧ s.progWord? s.pc = some w ∧ exec (decode w) u = .next v ∧
      SameFixed s u ∧ SameFixed v t := by
  obtain ⟨w, hh, hw, hcases⟩ := step_cases h
  obtain ⟨-, he⟩ | ⟨-, -, he⟩ | ⟨-, -, -, he⟩ | ⟨-, -, -, c, v, he, rfl⟩ := hcases
  · exact ⟨w, _, t, hh, hw, he, ⟨rfl, rfl, rfl⟩, ⟨rfl, rfl, rfl⟩⟩
  · exact ⟨w, _, t, hh, hw, he, ⟨rfl, rfl, rfl⟩, ⟨rfl, rfl, rfl⟩⟩
  · exact ⟨w, _, t, hh, hw, he, ⟨rfl, rfl, rfl⟩, ⟨rfl, rfl, rfl⟩⟩
  · exact ⟨w, _, v, hh, hw, he, ⟨rfl, rfl, rfl⟩, lateWrite_sameFixed ..⟩

/-- Settles O53: the instruction keeps program memory and the parameters, and the halt state unless it is `hlt`. -/
theorem programAndParametersFixed : Obligations.ProgramAndParametersFixed := by
  intro s t h
  obtain ⟨w, u, v, hh, hw, he, before, after⟩ := step_exec_sameFixed h
  have eff := exec_effect he
  refine ⟨by rw [after.pmem, eff.pmem, before.pmem], by rw [after.cfg, eff.cfg, before.cfg], fun ht => ⟨w, hw, ?_⟩⟩
  by_contra hi
  rw [after.halted, eff.halted hi, before.halted, hh] at ht
  exact Bool.false_ne_true ht

end Sys2Proof.Machine
end

section
/-! PROOF. The encoding (30_encoding.md): the fields read back from each layout, each layout rebuilt from the fields of a word,
and from these the two round trips, the X bits and the opcode map. -/

namespace Sys2Proof

/-! ### The slices of a word put together from fields -/

theorem slices_join2 {n m : Nat} (x : BitVec n) (y : BitVec m) :
    (x ++ y).extractLsb' m n = x ∧ (x ++ y).extractLsb' 0 m = y :=
  ⟨BitVec.extractLsb'_append_eq_left, BitVec.extractLsb'_append_eq_right⟩

theorem slices_join3 {n m l : Nat} (x : BitVec n) (y : BitVec m) (z : BitVec l) :
    (x ++ y ++ z).extractLsb' (m + l) n = x ∧ (x ++ y ++ z).extractLsb' l m = y ∧
      (x ++ y ++ z).extractLsb' 0 l = z := by
  simp [BitVec.extractLsb'_append_eq_of_le, BitVec.extractLsb'_append_eq_of_add_le]

theorem slices_join4 {n m l j : Nat} (x : BitVec n) (y : BitVec m) (z : BitVec l) (u : BitVec j) :
    (x ++ y ++ z ++ u).extractLsb' (m + l + j) n = x ∧ (x ++ y ++ z ++ u).extractLsb' (l + j) m = y ∧
      (x ++ y ++ z ++ u).extractLsb' j l = z ∧ (x ++ y ++ z ++ u).extractLsb' 0 j = u := by
  simp [BitVec.extractLsb'_append_eq_of_le, BitVec.extractLsb'_append_eq_of_add_le]

theorem slices_join5 {n m l j i : Nat} (x : BitVec n) (y : BitVec m) (z : BitVec l) (u : BitVec j) (v : BitVec i) :
    (x ++ y ++ z ++ u ++ v).extractLsb' (m + l + j + i) n = x ∧ (x ++ y ++ z ++ u ++ v).extractLsb' (l + j + i) m = y ∧
      (x ++ y ++ z ++ u ++ v).extractLsb' (j + i) l = z ∧ (x ++ y ++ z ++ u ++ v).extractLsb' i j = u ∧
      (x ++ y ++ z ++ u ++ v).extractLsb' 0 i = v := by
  simp [BitVec.extractLsb'_append_eq_of_le, BitVec.extractLsb'_append_eq_of_add_le]

theorem Reg.ofNumber_of_eq {n : BitVec 3} {r : Reg} (h : n = r.number) : Reg.ofNumber n = r := by
  rw [h, Reg.ofNumber_number]

/-! ### The fields of each layout (R82, R83) -/

theorem layoutNone_fields (op : BitVec 5) : opcodeField (layoutNone op) = op :=
  (slices_join2 op 0#11).1

theorem layoutJ_fields (op : BitVec 5) (a : ProgAddr) :
    opcodeField (layoutJ op a) = op ∧ fieldTarget (layoutJ op a) = a :=
  slices_join2 op a

theorem layoutRD_fields (op : BitVec 5) (rd : Reg) :
    opcodeField (layoutRD op rd) = op ∧ fieldRd (layoutRD op rd) = rd := by
  obtain ⟨hop, hrd, -⟩ := slices_join3 op rd.number 0#8
  exact ⟨hop, Reg.ofNumber_of_eq hrd⟩

theorem layoutRS_fields (op : BitVec 5) (rs : Reg) :
    opcodeField (layoutRS op rs) = op ∧ fieldRs (layoutRS op rs) = rs := by
  obtain ⟨hop, -, hrs⟩ := slices_join3 op 0#8 rs.number
  exact ⟨hop, Reg.ofNumber_of_eq hrs⟩

theorem layoutLD_fields (op : BitVec 5) (rd : Reg) (b : BitVec 8) :
    opcodeField (layoutLD op rd b) = op ∧ fieldRd (layoutLD op rd b) = rd ∧ fieldByte (layoutLD op rd b) = b := by
  obtain ⟨hop, hrd, hb⟩ := slices_join3 op rd.number b
  exact ⟨hop, Reg.ofNumber_of_eq hrd, hb⟩

theorem encodeSt_fields (addr : BitVec 8) (rs : Reg) :
    opcodeField (encode (.st addr rs)) = 0b10010 ∧ fieldStAddr (encode (.st addr rs)) = addr ∧
      fieldRs (encode (.st addr rs)) = rs := by
  obtain ⟨hop, haddr, hrs⟩ := slices_join3 0b10010#5 addr rs.number
  exact ⟨hop, haddr, Reg.ofNumber_of_eq hrs⟩

theorem layoutRR_fields (op : BitVec 5) (rd rs : Reg) :
    opcodeField (layoutRR op rd rs) = op ∧ fieldRd (layoutRR op rd rs) = rd ∧ fieldRs (layoutRR op rd rs) = rs := by
  obtain ⟨hop, hrd, -, hrs⟩ := slices_join4 op rd.number 0#5 rs.number
  exact ⟨hop, Reg.ofNumber_of_eq hrd, Reg.ofNumber_of_eq hrs⟩

theorem encodeStz_fields (off : Offset) (rs : Reg) :
    opcodeField (encode (.stz off rs)) = 0b10000 ∧ fieldOffset (encode (.stz off rs)) = off ∧
      fieldRs (encode (.stz off rs)) = rs := by
  obtain ⟨hop, -, hoff, hrs⟩ := slices_join4 0b10000#5 0#3 off rs.number
  exact ⟨hop, hoff, Reg.ofNumber_of_eq hrs⟩

theorem encodeLdz_fields (rd : Reg) (off : Offset) :
    opcodeField (encode (.ldz rd off)) = 0b10001 ∧ fieldRd (encode (.ldz rd off)) = rd ∧
      fieldOffset (encode (.ldz rd off)) = off := by
  obtain ⟨hop, hrd, hoff, -⟩ := slices_join4 0b10001#5 rd.number off 0#3
  exact ⟨hop, Reg.ofNumber_of_eq hrd, hoff⟩

theorem encodeBra_fields (off : Offset) :
    opcodeField (encode (.bra off)) = 0b10110 ∧ fieldOffset (encode (.bra off)) = off := by
  obtain ⟨hop, -, hoff, -⟩ := slices_join4 0b10110#5 0#3 off 0#3
  exact ⟨hop, hoff⟩

theorem layoutBRC_fields (op : BitVec 5) (sf : Bool) (off : Offset) (cc : Cond) :
    opcodeField (layoutBRC op sf off cc) = op ∧ fieldS (layoutBRC op sf off cc) = sf ∧
      fieldOffset (layoutBRC op sf off cc) = off ∧ fieldCond (layoutBRC op sf off cc) = cc := by
  obtain ⟨hop, hsf, -, hoff, hcc⟩ := slices_join5 op (BitVec.ofBool sf) 0#2 off cc.code
  have hS : fieldS (layoutBRC op sf off cc) = (BitVec.ofBool sf).getLsbD 0 := by
    rw [fieldS, layoutBRC_bit]
    rfl
  exact ⟨hop, hS.trans (by simp), hoff, (congrArg Cond.ofCode hcc).trans cc.ofCode_code⟩

/-- Settles O2: the opcode of the word selects the instruction's row, and the fields are read where its layout put them. -/
theorem decodeOfEncode : Obligations.DecodeOfEncode := by
  intro i
  cases i with
  | nop | ret | res2 | res3 | hlt => simp [encode, decode, layoutNone_fields]
  | add rd rs | addc rd rs | sub rd rs | subc rd rs | and rd rs | or rd rs | xor rd rs | mov rd rs =>
    simp [encode, decode, layoutRR_fields]
  | inc rd | dec rd | not rd | sll rd | slr rd | pll rd | lcr rd => simp [encode, decode, layoutRD_fields]
  | psh rs | stcr rs => simp [encode, decode, layoutRS_fields]
  | ld rd addr | ldi rd data => simp [encode, decode, layoutLD_fields]
  | jpa target | call target => simp [encode, decode, layoutJ_fields]
  | brs sf off cc | brc sf off cc => simp [encode, decode, layoutBRC_fields]
  | stz off rs => simp [decode, encodeStz_fields]
  | ldz rd off => simp [decode, encodeLdz_fields]
  | st addr rs => simp [decode, encodeSt_fields]
  | bra off => simp [decode, encodeBra_fields]

/-! ### Each layout rebuilt from the fields of a word: the X bits become 0, every other bit stays (R83, D1) -/

/-- A word that has the bits of `w` outside the mask `m`, and 0 inside it. -/
theorem eq_and_not {v w m : Word} (h : ∀ k < 16, v.getLsbD k = (w.getLsbD k && !m.getLsbD k)) : v = w &&& ~~~m := by
  apply BitVec.eq_of_getLsbD_eq
  intro k hk
  simp only [h k hk, BitVec.getLsbD_and, BitVec.getLsbD_not, hk, decide_true, Bool.true_and]

theorem layoutRR_of_fields (w : Word) :
    layoutRR (opcodeField w) (fieldRd w) (fieldRs w) = w &&& ~~~Format.rr.unusedBits := by
  refine eq_and_not fun k hk => ?_
  interval_cases k <;> simp [-BitVec.getLsbD_eq_getElem, layoutRR_bit, fieldRd, fieldRs, opcodeField, Format.unusedBits]

theorem layoutRD_of_fields (w : Word) :
    layoutRD (opcodeField w) (fieldRd w) = w &&& ~~~Format.rd.unusedBits := by
  refine eq_and_not fun k hk => ?_
  interval_cases k <;> simp [-BitVec.getLsbD_eq_getElem, layoutRD_bit, fieldRd, opcodeField, Format.unusedBits]

theorem layoutRS_of_fields (w : Word) :
    layoutRS (opcodeField w) (fieldRs w) = w &&& ~~~Format.rs.unusedBits := by
  refine eq_and_not fun k hk => ?_
  interval_cases k <;> simp [-BitVec.getLsbD_eq_getElem, layoutRS_bit, fieldRs, opcodeField, Format.unusedBits]

theorem layoutNone_of_fields (w : Word) : layoutNone (opcodeField w) = w &&& ~~~Format.none.unusedBits := by
  refine eq_and_not fun k hk => ?_
  interval_cases k <;> simp [-BitVec.getLsbD_eq_getElem, layoutNone_bit, opcodeField, Format.unusedBits]

theorem layoutLD_of_fields (w : Word) :
    layoutLD (opcodeField w) (fieldRd w) (fieldByte w) = w &&& ~~~Format.ld.unusedBits := by
  refine eq_and_not fun k hk => ?_
  interval_cases k <;> simp [-BitVec.getLsbD_eq_getElem, layoutLD_bit, fieldRd, fieldByte, opcodeField, Format.unusedBits]

theorem layoutJ_of_fields (w : Word) :
    layoutJ (opcodeField w) (fieldTarget w) = w &&& ~~~Format.j.unusedBits := by
  refine eq_and_not fun k hk => ?_
  interval_cases k <;> simp [-BitVec.getLsbD_eq_getElem, layoutJ_bit, fieldTarget, opcodeField, Format.unusedBits]

theorem layoutBRC_of_fields (w : Word) :
    layoutBRC (opcodeField w) (fieldS w) (fieldOffset w) (fieldCond w) = w &&& ~~~Format.brc.unusedBits := by
  refine eq_and_not fun k hk => ?_
  interval_cases k <;>
    simp [-BitVec.getLsbD_eq_getElem, layoutBRC_bit, fieldS, fieldOffset, fieldCond, opcodeField, Format.unusedBits]

theorem encodeStz_of_fields {w : Word} (h : opcodeField w = 0b10000#5) :
    encode (.stz (fieldOffset w) (fieldRs w)) = w &&& ~~~Format.stz.unusedBits := by
  refine eq_and_not fun k hk => ?_
  rw [encodeStz_bit, ← h]
  interval_cases k <;> simp [-BitVec.getLsbD_eq_getElem, fieldOffset, fieldRs, opcodeField, Format.unusedBits]

theorem encodeLdz_of_fields {w : Word} (h : opcodeField w = 0b10001#5) :
    encode (.ldz (fieldRd w) (fieldOffset w)) = w &&& ~~~Format.ldz.unusedBits := by
  refine eq_and_not fun k hk => ?_
  rw [encodeLdz_bit, ← h]
  interval_cases k <;> simp [-BitVec.getLsbD_eq_getElem, fieldRd, fieldOffset, opcodeField, Format.unusedBits]

theorem encodeSt_of_fields {w : Word} (h : opcodeField w = 0b10010#5) :
    encode (.st (fieldStAddr w) (fieldRs w)) = w &&& ~~~Format.st.unusedBits := by
  refine eq_and_not fun k hk => ?_
  rw [encodeSt_bit, ← h]
  interval_cases k <;> simp [-BitVec.getLsbD_eq_getElem, fieldStAddr, fieldRs, opcodeField, Format.unusedBits]

theorem encodeBra_of_fields {w : Word} (h : opcodeField w = 0b10110#5) :
    encode (.bra (fieldOffset w)) = w &&& ~~~Format.bra.unusedBits := by
  refine eq_and_not fun k hk => ?_
  rw [encodeBra_bit, ← h]
  interval_cases k <;> simp [-BitVec.getLsbD_eq_getElem, fieldOffset, opcodeField, Format.unusedBits]

/-- Settles O3: in each of the 32 rows the layout, filled with the fields of the word, is the word with 0 in the X bits. -/
theorem encodeOfDecode : Obligations.EncodeOfDecode := by
  intro w
  obtain ⟨op, h⟩ : ∃ op, opcodeField w = op := ⟨_, rfl⟩
  obtain ⟨⟨n, hn⟩⟩ := op
  interval_cases n <;>
    simp [decode, encode, unusedBits, formatOf, h, ← layoutRR_of_fields, ← layoutRD_of_fields, ← layoutRS_of_fields,
      ← layoutNone_of_fields, ← layoutLD_of_fields, ← layoutJ_of_fields, ← layoutBRC_of_fields, ← encodeStz_of_fields,
      ← encodeLdz_of_fields, ← encodeSt_of_fields, ← encodeBra_of_fields]

/-! ### The X bits carry nothing (R84, D1) -/

theorem opcodeField_and (v w : Word) : opcodeField (v &&& w) = opcodeField v &&& opcodeField w :=
  BitVec.extractLsb'_and

theorem opcodeField_unusedBits (f : Format) : opcodeField f.unusedBits = 0#5 := by
  cases f <;> rfl

theorem opcodeField_flip_unusedBits (w x : Word) (f : Format) :
    opcodeField (w ^^^ (x &&& f.unusedBits)) = opcodeField w := by
  calc opcodeField (w ^^^ (x &&& f.unusedBits)) = opcodeField w ^^^ opcodeField (x &&& f.unusedBits) :=
        BitVec.extractLsb'_xor
    _ = opcodeField w := by rw [opcodeField_and, opcodeField_unusedBits, BitVec.and_zero, BitVec.xor_zero]

/-- A change inside a mask is gone once the mask is cleared. -/
theorem flip_and_not (w x m : Word) : (w ^^^ (x &&& m)) &&& ~~~m = w &&& ~~~m := by
  refine eq_and_not fun k hk => ?_
  simp only [BitVec.getLsbD_and, BitVec.getLsbD_xor, BitVec.getLsbD_not, hk, decide_true, Bool.true_and]
  cases m.getLsbD k <;> simp

theorem decode_clear_unusedBits (w : Word) : decode (w &&& ~~~unusedBits w) = decode w := by
  rw [← encodeOfDecode w, decodeOfEncode]

/-- Settles O4: the changed word has the same opcode, so the same layout, and both are the same word once the X bits are
cleared, which does not change what they decode to. -/
theorem unusedBitsIgnored : Obligations.UnusedBitsIgnored := by
  intro w x
  have hmask : unusedBits (w ^^^ (x &&& unusedBits w)) = unusedBits w := by
    rw [unusedBits, unusedBits, opcodeField_flip_unusedBits]
  rw [← decode_clear_unusedBits, hmask, flip_and_not, decode_clear_unusedBits]

/-! ### The opcode map (R88, R90) -/

/-- The constructors of `Instr` stand in the order of their opcodes. -/
theorem ctorIdx_decode (w : Word) : (decode w).ctorIdx = (opcodeField w).toNat := by
  obtain ⟨op, h⟩ : ∃ op, opcodeField w = op := ⟨_, rfl⟩
  obtain ⟨⟨n, hn⟩⟩ := op
  interval_cases n <;> simp [decode, h, Instr.ctorIdx]

/-- The match column is the opcode above 11 zero bits. -/
theorem matchWord_eq (i : Instr) : Machine.matchWord i = layoutNone (BitVec.ofNat 5 i.ctorIdx) := by
  cases i <;> simp [Machine.matchWord, layoutNone, Instr.ctorIdx]

theorem matchWord_decode (w : Word) : Machine.matchWord (decode w) = layoutNone (opcodeField w) := by
  rw [matchWord_eq, ctorIdx_decode, BitVec.ofNat_toNat, BitVec.setWidth_eq]

theorem layoutNone_injective : Function.Injective layoutNone :=
  Function.LeftInverse.injective layoutNone_fields

/-- Settles O5: match column, opcode and row determine each other, every instruction being one that some word decodes to. -/
theorem opcodeMapComplete : Obligations.OpcodeMapComplete := by
  refine ⟨fun w => ?_, fun op => ⟨decode (layoutNone op), ?_⟩, fun i j => ?_⟩
  · exact (matchWord_decode w).trans (layoutNone_of_fields w)
  · rw [matchWord_decode, layoutNone_fields, layoutNone]
  · rw [← decodeOfEncode i, ← decodeOfEncode j, matchWord_decode, matchWord_decode, layoutNone_injective.eq_iff,
      BitVec.toNat_eq, ctorIdx_decode, ctorIdx_decode]

/-- Settles O1, word by word. -/
theorem specWordsDecode : Obligations.SpecWordsDecode := by
  unfold Obligations.SpecWordsDecode
  decide

end Sys2Proof
end

section
/-! PROOF. Every instruction completes but for a device (30_encoding.md R89; D16, D19), and so does every step. -/

namespace Sys2Proof.Machine

/-- Settles O55: each access of the instruction is to one of its addresses, none of which is a device. -/
theorem instructionsComplete : Obligations.InstructionsComplete := by
  intro i s h
  cases i with
  | psh rs => exact ⟨_, andThen_eq_next.2 ⟨_, storeByte_plain _ (h _ (by simp [storeAddrs])), rfl⟩⟩
  | stz off rs | st addr rs => exact ⟨_, storeByte_plain _ (h _ (by simp [storeAddrs]))⟩
  | call target =>
    have hfirst := h (stk s.cfg s.sp) (by simp [storeAddrs])
    have hsecond := h (stk s.cfg (s.sp + 1)) (by simp [storeAddrs])
    exact ⟨_, andThen_eq_next.2 ⟨_, storeByte_plain _ hfirst, andThen_eq_next.2 ⟨_, storeByte_plain _ hsecond, rfl⟩⟩⟩
  | pll rd | ldz rd off | ld rd addr =>
    have hplain := h _ (List.mem_append_right _ List.mem_cons_self)
    simp only [exec, execPll, execLdz, execLd, loadByte_plain _ hplain]
    exact ⟨_, rfl⟩
  | ret =>
    have hfirst := h (stk s.cfg (s.sp - 2)) (by simp [loadAddrs])
    have hsecond := h (stk s.cfg (s.sp - 1)) (by simp [loadAddrs])
    simp only [exec, execRet, loadByte_plain _ hfirst, loadByte_plain _ hsecond]
    exact ⟨_, rfl⟩
  | _ => exact ⟨_, rfl⟩

/-- With no device in data memory every instruction completes. -/
theorem exec_completes {s : State} (hd : s.cfg.deviceMap = []) (i : Instr) : ∃ t, exec i s = .next t :=
  instructionsComplete i s fun _ _ => hd ▸ List.not_mem_nil

/-- So does an instruction with a page write pending, wherever the page write comes. -/
theorem runWindow_completes {s : State} (hd : s.cfg.deviceMap = []) (i : Instr) : ∃ t, runWindow i s = .next t := by
  obtain ⟨-, e⟩ | ⟨-, -, e | ⟨c, e⟩⟩ := runWindow_cases i s
  · exact e ▸ exec_completes (s := s.pageWrite) hd i
  · exact e ▸ exec_completes (s := s.drawn.pageWrite) hd i
  · obtain ⟨u, hu⟩ := exec_completes (s := s.drawn) hd i
    exact ⟨_, e.trans (andThen_eq_next.2 ⟨u, hu, rfl⟩)⟩

/-- Settles O57: a running machine at a placed word performs it, and neither the instruction alone nor the window stops. -/
theorem everyStepCompletes : Obligations.EveryStepCompletes := by
  intro s w hh hw hd
  rw [step_of_placed hh hw, perform]
  split
  · exact runWindow_completes (s := s.fetched w) hd _
  · exact exec_completes (s := s.fetched w) hd _

end Sys2Proof.Machine
end

section
/-! PROOF. The arithmetic and logic instructions (40_arith_logic.md): their words, each flag formula as a statement about the
exact result in integers, their effects, and the two-step 16-bit operations (R122). -/

namespace Sys2Proof

/-! ### The words of the layouts `RR` and `RD`, as the rules write them -/

theorem layoutRR_eq_or (op : BitVec 5) (rd rs : Reg) :
    layoutRR op rd rs = layoutNone op ||| Machine.atBit rd.number 8 ||| Machine.atBit rs.number 0 := by
  apply BitVec.eq_of_getLsbD_eq
  intro k hk
  interval_cases k <;> simp [-BitVec.getLsbD_eq_getElem, layoutRR_bit, layoutNone_bit, Machine.atBit]

theorem layoutRD_eq_or (op : BitVec 5) (rd : Reg) :
    layoutRD op rd = layoutNone op ||| Machine.atBit rd.number 8 := by
  apply BitVec.eq_of_getLsbD_eq
  intro k hk
  interval_cases k <;> simp [-BitVec.getLsbD_eq_getElem, layoutRD_bit, layoutNone_bit, Machine.atBit]

end Sys2Proof

namespace Sys2Proof.Machine

/-! ### A byte as a signed number -/

/-- What determines the signed value of a byte. -/
theorem byte_toInt_spec (b : Byte) : -128 ≤ b.toInt ∧ b.toInt < 128 ∧ b.toInt % 256 = (b.toNat : Int) % 256 :=
  ⟨BitVec.le_toInt b, BitVec.toInt_lt, byte_toInt_emod b⟩

/-- Bit 7 is the sign. -/
theorem byte_bit7_iff (b : Byte) : b.getLsbD 7 = true ↔ b.toInt < 0 := by
  rw [show b.getLsbD 7 = b.msb from rfl, BitVec.msb_eq_toInt, decide_eq_true_iff]

theorem byte_bit7_eq_iff (a b : Byte) : a.getLsbD 7 = b.getLsbD 7 ↔ (a.toInt < 0 ↔ b.toInt < 0) := by
  rw [Bool.eq_iff_iff, byte_bit7_iff, byte_bit7_iff]

/-! ### The addition formulas in integers (R112, R113; D9) -/

theorem addResult_toNat (a b : Byte) (cin : Nat) :
    (addResult a b cin).toNat = (a.toNat + b.toNat + cin) % 256 := by
  simp [addResult, BitVec.toNat_add]

/-- Bit 8 of the 9-bit sum is its top bit, and the sum of two bytes and a carry does not wrap in 9 bits. -/
theorem addCarry_iff (a b : Byte) {cin : Nat} (hcin : cin ≤ 1) :
    addCarry a b cin = true ↔ 255 < a.toNat + b.toNat + cin := by
  have hmsb := BitVec.msb_eq_decide (a.zeroExtend 9 + b.zeroExtend 9 + BitVec.ofNat 9 cin)
  rw [addCarry, show ∀ x : BitVec 9, x.getLsbD 8 = x.msb from fun _ => rfl, hmsb, decide_eq_true_iff]
  simp only [BitVec.toNat_add, BitVec.truncate_eq_setWidth, BitVec.toNat_setWidth, BitVec.toNat_ofNat]
  omega

/-- Operands of one sign and a result of the other: exactly when the exact sum is no signed byte. -/
theorem addOverflow_iff (a b : Byte) {cin : Nat} (hcin : cin ≤ 1) :
    addOverflow a b (addResult a b cin) = true ↔
      a.toInt + b.toInt + cin < -128 ∨ 127 < a.toInt + b.toInt + cin := by
  have hr := addResult_toNat a b cin
  generalize addResult a b cin = r at hr ⊢
  have ha := byte_toInt_spec a
  have hb := byte_toInt_spec b
  have hrb := byte_toInt_spec r
  simp only [addOverflow, Bool.and_eq_true, beq_iff_eq, bne_iff_ne, ne_eq, byte_bit7_eq_iff]
  omega

/-! ### The subtraction formulas in integers (R114, R115; D9) -/

theorem subResult_toNat (a b : Byte) (cin : Nat) :
    ((subResult a b cin).toNat : Int) = (a.toNat - b.toNat - cin) % 256 := by
  simp only [subResult, BitVec.toNat_sub, BitVec.toNat_ofNat]
  omega

theorem subBorrow_iff (a b : Byte) (cin : Nat) :
    subBorrow a b cin = true ↔ a.toNat < b.toNat + cin :=
  decide_eq_true_iff

/-- Operands of different signs and a result of the sign of the second: exactly when the exact difference is no signed byte. -/
theorem subOverflow_iff (a b : Byte) {cin : Nat} (hcin : cin ≤ 1) :
    subOverflow a b (subResult a b cin) = true ↔
      a.toInt - b.toInt - cin < -128 ∨ 127 < a.toInt - b.toInt - cin := by
  have hr := subResult_toNat a b cin
  generalize subResult a b cin = r at hr ⊢
  have ha := byte_toInt_spec a
  have hb := byte_toInt_spec b
  have hrb := byte_toInt_spec r
  simp only [subOverflow, Bool.and_eq_true, bne_iff_ne, ne_eq, byte_bit7_eq_iff]
  omega

/-! ### The effect of a result and its flags (R110, R111; D8, D12) -/

/-- Writing a result and its flags keeps the rest, a free value drawn or not. -/
theorem AluFrame.of_aluWrite {s : State} {rd : Reg} {c v : Bool} {r : Byte} {n : Nat} :
    AluFrame rd s { s.aluWrite rd c v r with draws := n } where
  frame :=
    { regs := fun q hq => State.setReg_reg_other s r (by simpa using hq)
      written := fun _ _ => rfl
      bytes := fun _ _ => rfl
      prog := fun _ => rfl
      ir := rfl
      pr := rfl
      window := rfl
      cfg := rfl }
  p := rfl
  pc := rfl
  sp := rfl
  halted := rfl

/-- The flags of an exact result `u` on unsigned and `i` on signed operands: S = N xor V is the sign of `i`, because `i` is at
most one byte range away from the signed bytes. -/
theorem ArithEffect.of_aluWrite {s : State} {rd : Reg} {c v : Bool} {r : Byte} {u i : Int}
    (hresult : (r.toNat : Int) = u % 256) (hcarry : c = true ↔ u < 0 ∨ 255 < u)
    (hoverflow : v = true ↔ i < -128 ∨ 127 < i) (hmod : i % 256 = u % 256) (hi : -256 ≤ i ∧ i < 256) :
    ArithEffect rd u i s (s.aluWrite rd c v r) where
  result := by simpa [State.aluWrite] using hresult
  carry := hcarry
  overflow := hoverflow
  negative := by simpa [State.aluWrite, setFlags] using byte_bit7_iff r
  sign := by
    have hr := byte_toInt_spec r
    have hxor : (r.getLsbD 7 ^^ v) = true ↔ ¬(r.toInt < 0 ↔ i < -128 ∨ 127 < i) := by
      rw [← byte_bit7_iff, ← hoverflow, ← Bool.eq_iff_iff, bne_iff_ne]
    refine hxor.trans ?_
    omega
  zero := by simp [State.aluWrite, setFlags]
  rest := .of_aluWrite

theorem addTo_effect (rd : Reg) (b : Byte) {cin : Nat} (hcin : cin ≤ 1) (s : State) :
    ∃ t, addTo rd b cin s = .next t ∧
      ArithEffect rd ((s.reg rd).toNat + b.toNat + cin) ((s.reg rd).toInt + b.toInt + cin) s t := by
  have ha := byte_toInt_spec (s.reg rd)
  have hb := byte_toInt_spec b
  have hr := addResult_toNat (s.reg rd) b cin
  have hc := addCarry_iff (s.reg rd) b hcin
  exact ⟨_, rfl,
    .of_aluWrite (by omega) (hc.trans (by omega)) (addOverflow_iff _ _ hcin) (by omega) (by omega)⟩

theorem subFrom_effect (rd : Reg) (b : Byte) {cin : Nat} (hcin : cin ≤ 1) (s : State) :
    ∃ t, subFrom rd b cin s = .next t ∧
      ArithEffect rd ((s.reg rd).toNat - b.toNat - cin) ((s.reg rd).toInt - b.toInt - cin) s t := by
  have ha := byte_toInt_spec (s.reg rd)
  have hb := byte_toInt_spec b
  have hc := subBorrow_iff (s.reg rd) b cin
  exact ⟨_, rfl,
    .of_aluWrite (subResult_toNat _ _ cin) (hc.trans (by omega)) (subOverflow_iff _ _ hcin) (by omega) (by omega)⟩

theorem carryIn_le_one (x : Scr) : carryIn x ≤ 1 := Bool.toNat_le x.c

/-- `inc` is the addition of 1 (R116). -/
theorem execInc_eq_addTo (rd : Reg) (s : State) : execInc rd s = addTo rd 1 0 s := by
  have hflags : ∀ a : Byte, addResult a 1 0 = a + 1 ∧ addCarry a 1 0 = (a == 0xFF) ∧
      addOverflow a 1 (a + 1) = (a == 0x7F) := by decide
  obtain ⟨hr, hc, hv⟩ := hflags (s.reg rd)
  simp only [execInc, addTo, hr, hc, hv]

/-- `dec` is the subtraction of 1 (R117). -/
theorem execDec_eq_subFrom (rd : Reg) (s : State) : execDec rd s = subFrom rd 1 0 s := by
  have hflags : ∀ a : Byte, subResult a 1 0 = a - 1 ∧ subBorrow a 1 0 = (a == 0x00) ∧
      subOverflow a 1 (a - 1) = (a == 0x80) := by decide
  obtain ⟨hr, hc, hv⟩ := hflags (s.reg rd)
  simp only [execDec, subFrom, hr, hc, hv]

/-! ### The arithmetic instructions -/

/-- Settles O12: an addition with no carry-in. -/
theorem addEffect : Obligations.AddEffect := by
  intro rd rs s
  refine ⟨layoutRR_eq_or 0b00001 rd rs, ?_⟩
  simpa [exec, execAdd] using addTo_effect rd (s.reg rs) (cin := 0) (by decide) s

/-- Settles O13: an addition with C as the carry-in. -/
theorem addcEffect : Obligations.AddcEffect := fun rd rs s =>
  ⟨layoutRR_eq_or 0b00010 rd rs, addTo_effect rd (s.reg rs) (carryIn_le_one s.scr) s⟩

/-- Settles O14: a subtraction with no borrow-in. -/
theorem subEffect : Obligations.SubEffect := by
  intro rd rs s
  refine ⟨layoutRR_eq_or 0b00011 rd rs, ?_⟩
  simpa [exec, execSub] using subFrom_effect rd (s.reg rs) (cin := 0) (by decide) s

/-- Settles O15: a subtraction with C as the borrow-in. -/
theorem subcEffect : Obligations.SubcEffect := fun rd rs s =>
  ⟨layoutRR_eq_or 0b00100 rd rs, subFrom_effect rd (s.reg rs) (carryIn_le_one s.scr) s⟩

/-- Settles O16: the addition and the subtraction of the byte 1. -/
theorem incDecEffect : Obligations.IncDecEffect := by
  intro rd s
  refine ⟨layoutRD_eq_or 0b00101 rd, layoutRD_eq_or 0b00110 rd, ?_, ?_⟩
  · simpa [exec, execInc_eq_addTo] using addTo_effect rd 1 (cin := 0) (by decide) s
  · simpa [exec, execDec_eq_subFrom] using subFrom_effect rd 1 (cin := 0) (by decide) s

/-! ### Two-step 16-bit arithmetic (R122) -/

/-- C as the number the next addition or subtraction takes in. -/
theorem ArithEffect.carry_toNat {rd : Reg} {u i : Int} {s t : State} (h : ArithEffect rd u i s t) :
    (u < 0 ∨ 255 < u) ∧ t.scr.c.toNat = 1 ∨ ¬(u < 0 ∨ 255 < u) ∧ t.scr.c.toNat = 0 := by
  rw [← h.carry]
  cases t.scr.c <;> decide

theorem AluFrame.reg_other {rd r : Reg} {s t : State} (h : AluFrame rd s t) (hr : r ≠ rd) : t.reg r = s.reg r :=
  h.frame.regs r (by simpa using hr)

/-- Settles O17: the carry of the low sum is the carry-in of the high one, whose operands the low one left alone. -/
theorem sixteenBitAddition : Obligations.SixteenBitAddition := by
  intro dl dh sl sh s hdh hsh
  obtain ⟨-, t, ht, low⟩ := addEffect dl sl s
  obtain ⟨-, u, hu, high⟩ := addcEffect dh sh t
  refine ⟨t, u, ht, hu, ?_⟩
  rw [low.rest.reg_other hdh, low.rest.reg_other hsh] at high
  have hlow := low.result
  have hcin := low.carry_toNat
  have hhigh := high.result
  simp only [high.rest.reg_other hdh.symm]
  exact ⟨by omega, high.carry.trans (by omega), high.overflow.trans (by omega)⟩

/-- Settles O18: the borrow of the low difference is the borrow-in of the high one. -/
theorem sixteenBitSubtraction : Obligations.SixteenBitSubtraction := by
  intro dl dh sl sh s hdh hsh
  obtain ⟨-, t, ht, low⟩ := subEffect dl sl s
  obtain ⟨-, u, hu, high⟩ := subcEffect dh sh t
  refine ⟨t, u, ht, hu, ?_⟩
  rw [low.rest.reg_other hdh, low.rest.reg_other hsh] at high
  have hlow := low.result
  have hcin := low.carry_toNat
  have hhigh := high.result
  simp only [high.rest.reg_other hdh.symm]
  exact ⟨by omega, high.carry.trans (by omega), high.sign.trans (by omega)⟩

/-! ### The logic instructions (R118 to R121; D10, U4) -/

theorem LogicEffect.of_logicWrite (rd : Reg) (r : Byte) (s : State) : LogicEffect rd r s (s.logicWrite rd r) where
  result := by simp [State.logicWrite, State.aluWrite]
  overflow := rfl
  negative := byte_bit7_iff r
  sign := Bool.xor_false _
  zero := beq_iff_eq
  rest := .of_aluWrite

theorem byte_not_eq (b : Byte) : ~~~b = BitVec.ofNat 8 (255 - b.toNat) := by
  apply BitVec.eq_of_toNat_eq
  simp only [BitVec.toNat_not, BitVec.toNat_ofNat]
  omega

/-- Settles O20: each is a logic write of its bitwise result. -/
theorem logicEffects : Obligations.LogicEffects := by
  intro rd rs s
  refine ⟨⟨layoutRR_eq_or 0b00111 rd rs, layoutRR_eq_or 0b01000 rd rs, layoutRR_eq_or 0b01001 rd rs,
    layoutRD_eq_or 0b01010 rd⟩, ⟨_, rfl, .of_logicWrite rd _ s⟩, ⟨_, rfl, .of_logicWrite rd _ s⟩,
    ⟨_, rfl, .of_logicWrite rd _ s⟩, ⟨_, rfl, ?_⟩⟩
  rw [← byte_not_eq]
  exact .of_logicWrite rd _ s

end Sys2Proof.Machine
end

section
/-! PROOF. The shift instructions (41_shift.md): the shifted byte and the bit shifted out as statements about numbers, and the
effect of a shift. -/

namespace Sys2Proof.Machine

/-! ### A shift by one position in numbers (R131, R132) -/

/-- Bit 7 of a byte as an unsigned number. -/
theorem byte_bit7_iff_le (b : Byte) : b.getLsbD 7 = true ↔ 128 ≤ b.toNat := by
  rw [show b.getLsbD 7 = b.msb from rfl, BitVec.msb_eq_true_iff_two_mul_ge]
  omega

theorem byte_bit0_iff_odd (b : Byte) : b.getLsbD 0 = true ↔ b.toNat % 2 = 1 := by
  rw [BitVec.getLsbD, Nat.testBit_zero, decide_eq_true_iff]

/-- `a[6:0] : 0` (R131). -/
theorem shiftedLeft_toNat (b : Byte) : (b.extractLsb' 0 7 ++ 0#1).toNat = 2 * b.toNat % 256 := by
  have hlow : (b.extractLsb' 0 7).toNat = b.toNat % 128 := BitVec.extractLsb'_toNat 0 7 b
  rw [toNat_append_eq_add, hlow, BitVec.toNat_ofNat]
  omega

/-- `0 : a[7:1]` (R132). -/
theorem shiftedRight_toNat (b : Byte) : (0#1 ++ b.extractLsb' 1 7).toNat = b.toNat / 2 := by
  have hhigh : (b.extractLsb' 1 7).toNat = b.toNat / 2 % 128 := by
    rw [BitVec.extractLsb'_toNat, Nat.shiftRight_eq_div_pow]
  rw [toNat_append_eq_add, hhigh, BitVec.toNat_ofNat]
  omega

/-! ### The effect of a shift (R130 to R132; D8, D11, D12, U5) -/

/-- A shift write whose result is the number `n` and whose shifted-out bit says `p`: V is whatever was drawn. -/
theorem ShiftEffect.of_shiftWrite {rd : Reg} {s : State} {c : Bool} {r : Byte} {n : Nat} {p : Prop}
    (hresult : r.toNat = n) (hcarry : c = true ↔ p) : ShiftEffect rd n p s (s.shiftWrite rd c r) where
  result := by simpa [State.shiftWrite, State.aluWrite] using hresult
  carry := hcarry
  negative := hresult ▸ byte_bit7_iff_le r
  sign := rfl
  zero := hresult ▸ beq_iff_eq.trans BitVec.toNat_inj.symm
  rest := .of_aluWrite

/-- Settles O21: each is a shift write of its shifted byte and of the bit shifted out. -/
theorem shiftEffects : Obligations.ShiftEffects := fun rd _ =>
  ⟨layoutRD_eq_or 0b01011 rd, layoutRD_eq_or 0b01100 rd,
    ⟨_, rfl, .of_shiftWrite (shiftedLeft_toNat _) (byte_bit7_iff_le _)⟩,
    ⟨_, rfl, .of_shiftWrite (shiftedRight_toNat _) (byte_bit0_iff_odd _)⟩⟩

end Sys2Proof.Machine
end

section
/-! PROOF. The data movement instructions (42_data_move.md): their words, the effect of a byte put into a register and of a byte
stored, each instruction as one of the two, and the byte a store leaves as the one a later load reads. -/

namespace Sys2Proof.Machine

/-! ### A word is the "or" of its fields, each at its bit (R83) -/

theorem cast_eq_atBit {n : Nat} (h : n = 16) (x : BitVec n) : x.cast h = atBit x 0 := by
  subst h
  exact ((BitVec.shiftLeft_zero _).trans (BitVec.setWidth_eq x)).symm

@[simp] theorem atBit_zero (n k : Nat) : atBit 0#n k = 0#16 := by
  simp [atBit]

theorem atBit_bit {n : Nat} (v : BitVec n) (k : Nat) {i : Nat} (hi : i < 16) :
    (atBit v k).getLsbD i = (!decide (i < k) && v.getLsbD (i - k)) := by
  simp [-BitVec.getLsbD_eq_getElem, atBit, hi, show i - k < 16 by omega]

/-- Bit `i` lies below both fields, in the lower one, or at or above the foot of the upper one. -/
theorem atBit_append {n m : Nat} (x : BitVec n) (y : BitVec m) (k : Nat) :
    atBit (x ++ y) k = atBit x (m + k) ||| atBit y k := by
  apply BitVec.eq_of_getLsbD_eq
  intro i hi
  rw [BitVec.getLsbD_or, atBit_bit _ _ hi, atBit_bit _ _ hi, atBit_bit _ _ hi, BitVec.getLsbD_append]
  obtain hbelow | ⟨-, hy⟩ | hx : i < k ∨ (k ≤ i ∧ i - k < m) ∨ m + k ≤ i := by omega
  · simp [hbelow, Nat.lt_add_left m hbelow]
  · simp [hy, show i < m + k by omega]
  · have hm : m ≤ i - k := Nat.le_sub_of_add_le hx
    simp [hm, hx, Nat.not_lt.2, Nat.sub_sub, Nat.add_comm k m, Nat.le_of_add_left_le hx]

/-- A word of three fields. -/
theorem join3_eq_or {n m l : Nat} (h : n + m + l = 16) (x : BitVec n) (y : BitVec m) (z : BitVec l) :
    (x ++ y ++ z).cast h = atBit x (m + l) ||| atBit y l ||| atBit z 0 := by
  rw [cast_eq_atBit, atBit_append, atBit_append, Nat.add_zero]

/-- A word of four fields. -/
theorem join4_eq_or {n m l j : Nat} (h : n + m + l + j = 16) (x : BitVec n) (y : BitVec m) (z : BitVec l) (u : BitVec j) :
    (x ++ y ++ z ++ u).cast h = atBit x (m + (l + j)) ||| atBit y (l + j) ||| atBit z j ||| atBit u 0 := by
  rw [cast_eq_atBit, atBit_append, atBit_append, atBit_append, Nat.add_zero]

theorem layoutRS_eq_or (op : BitVec 5) (rs : Reg) : layoutRS op rs = atBit op 11 ||| atBit rs.number 0 :=
  (join3_eq_or rfl op 0#8 rs.number).trans (by rw [atBit_zero, BitVec.or_zero])

theorem layoutLD_eq_or (op : BitVec 5) (rd : Reg) (b : BitVec 8) :
    layoutLD op rd b = atBit op 11 ||| atBit rd.number 8 ||| atBit b 0 :=
  join3_eq_or rfl op rd.number b

/-- The opcode and the X bits below it are a constant. -/
theorem encodeStz_eq_or (off : Offset) (rs : Reg) :
    encode (.stz off rs) = 0x8000 ||| atBit off 3 ||| atBit rs.number 0 :=
  join4_eq_or rfl 0b10000#5 0#3 off rs.number

theorem encodeLdz_eq_or (rd : Reg) (off : Offset) :
    encode (.ldz rd off) = 0x8800 ||| atBit rd.number 8 ||| atBit off 3 :=
  (join4_eq_or rfl 0b10001#5 rd.number off 0#3).trans BitVec.or_zero

theorem encodeSt_eq_or (addr : BitVec 8) (rs : Reg) :
    encode (.st addr rs) = 0x9000 ||| atBit addr 3 ||| atBit rs.number 0 :=
  join3_eq_or rfl 0b10010#5 addr rs.number

/-! ### A byte put into a register (R22) -/

/-- A byte to `rd`, SP moved or not: nothing else of the frame changes. -/
theorem Frame.of_setReg (rd : Reg) (v : Byte) (p : StackPtr) (s : State) :
    Frame [rd] [] s { s.setReg rd v with sp := p } where
  regs _ hq := State.setReg_reg_other s v (by simpa using hq)
  written _ _ := rfl
  bytes _ _ := rfl
  prog _ := rfl
  ir := rfl
  pr := rfl
  window := rfl
  cfg := rfl

/-- What an instruction that puts `v` into `rd` and leaves SP alone answers. -/
theorem setReg_effect (rd : Reg) (v : Byte) (s : State) :
    ∃ t, (.next (s.setReg rd v) : Result) = .next t ∧ t.reg rd = v ∧ Frame [rd] [] s t ∧
      t.scr = s.scr ∧ t.pc = s.pc ∧ t.sp = s.sp ∧ t.halted = s.halted :=
  ⟨_, rfl, s.setReg_reg_self rd v, .of_setReg rd v s.sp s, rfl, rfl, rfl, rfl⟩

/-- Settles O22: `mov` puts the source into the destination. -/
theorem movEffect : Obligations.MovEffect := fun rd rs s =>
  ⟨layoutRR_eq_or 0b01101 rd rs, setReg_effect rd (s.reg rs) s⟩

/-- Settles O23: `ldi` puts the data byte into the destination. -/
theorem ldiEffect : Obligations.LdiEffect := fun rd data s =>
  ⟨layoutLD_eq_or 0b10100 rd data, setReg_effect rd data s⟩

/-! ### Loads (R143, R145, R147) -/

theorem State.dataByte_of_written {s : State} {a : DataAddr} {v : Byte} (h : s.written? a = some v) :
    s.dataByte a = v := by
  rw [State.dataByte, h, Option.getD_some]

/-- What a load into `rd` from a plain address answers. -/
theorem loadByte_setReg_effect {s : State} {a : DataAddr} (rd : Reg) (hplain : a ∉ s.cfg.deviceMap) :
    ∃ t, loadByte s a (fun b => .next (s.setReg rd b)) = .next t ∧ t.reg rd = s.dataByte a ∧ Frame [rd] [] s t ∧
      t.scr = s.scr ∧ t.pc = s.pc ∧ t.sp = s.sp ∧ t.halted = s.halted := by
  rw [loadByte_plain _ hplain]
  exact setReg_effect rd _ s

/-- Settles O27: `ldz` is a load from its address. -/
theorem ldzEffect : Obligations.LdzEffect := fun rd off _ hplain =>
  ⟨encodeLdz_eq_or rd off, loadByte_setReg_effect rd hplain⟩

/-- Settles O29: `ld` is a load from its address, which reads the byte written last where one has been. -/
theorem ldEffect : Obligations.LdEffect := by
  intro rd addr s hplain
  obtain ⟨t, ht, hreg, hrest⟩ := loadByte_setReg_effect rd hplain
  exact ⟨layoutLD_eq_or 0b10011 rd addr, t, ht, hreg, fun b hb => hreg.trans (State.dataByte_of_written hb), hrest⟩

/-- Settles O25: `pll` puts the byte at the slot below SP into the destination; taking 1 from SP is adding 1023. -/
theorem pllEffect : Obligations.PllEffect := by
  intro rd s hplain
  refine ⟨layoutRD_eq_or 0b01111 rd, ?_⟩
  rw [exec, execPll, loadByte_plain _ hplain]
  have hsp : (s.sp - 1).toNat = (s.sp.toNat + 1023) % 1024 := by
    rw [BitVec.toNat_sub, Nat.add_comm s.sp.toNat]
    rfl
  exact ⟨_, rfl, s.setReg_reg_self rd _, hsp, .of_setReg rd _ _ s, rfl, rfl, rfl⟩

/-! ### Stores (R142, R144, R146) -/

theorem State.setByte_written?_self (s : State) (a : DataAddr) (v : Byte) : (s.setByte a v).written? a = some v := by
  rw [State.setByte_written?, if_pos rfl]

/-- A byte to address `a`, SP moved or not: nothing else of the frame changes. -/
theorem Frame.of_setByte (a : DataAddr) (v : Byte) (p : StackPtr) (s : State) :
    Frame [] [a] s { s.setByte a v with sp := p } where
  regs _ _ := rfl
  written _ hb := s.setByte_written?_other v (by simpa using hb)
  bytes _ hb := State.dataByte_congr (s.setByte_written?_other v (by simpa using hb))
  prog _ := rfl
  ir := rfl
  pr := rfl
  window := rfl
  cfg := rfl

/-- What a store to a plain address answers. -/
theorem storeByte_effect {s : State} {a : DataAddr} (v : Byte) (hplain : a ∉ s.cfg.deviceMap) :
    ∃ t, storeByte s a v = .next t ∧ t.written? a = some v ∧ Frame [] [a] s t ∧
      t.scr = s.scr ∧ t.pc = s.pc ∧ t.sp = s.sp ∧ t.halted = s.halted :=
  ⟨_, storeByte_plain v hplain, s.setByte_written?_self a v, .of_setByte a v s.sp s, rfl, rfl, rfl, rfl⟩

/-- Settles O26: `stz` is a store to its address. -/
theorem stzEffect : Obligations.StzEffect := fun off rs _ hplain =>
  ⟨encodeStz_eq_or off rs, storeByte_effect _ hplain⟩

/-- Settles O28: `st` is a store to its address. -/
theorem stEffect : Obligations.StEffect := fun addr rs _ hplain =>
  ⟨encodeSt_eq_or addr rs, storeByte_effect _ hplain⟩

/-- Settles O24: `psh` stores to the slot SP names and adds one to SP, modulo 1024. -/
theorem pshEffect : Obligations.PshEffect := fun rs s hplain =>
  ⟨layoutRS_eq_or 0b01110 rs, _, andThen_eq_next.2 ⟨_, storeByte_plain _ hplain, rfl⟩,
    s.setByte_written?_self _ _, BitVec.toNat_add s.sp 1, .of_setByte _ _ _ s, rfl, rfl, rfl⟩

/-! ### A stored byte is read back (R53, R64; D18, D19) -/

/-- A load from the address of an earlier store hands on the stored byte, if the parameters and that byte were kept between:
the address was no device at the store and is none now. -/
theorem loadByte_of_storeByte {s t u : State} {a : DataAddr} {v : Byte} (k : Byte → Result)
    (hstore : storeByte s a v = .next t) (hcfg : u.cfg = t.cfg) (hkeep : u.written? a = t.written? a) :
    loadByte u a k = k v := by
  obtain ⟨hplain, rfl⟩ := storeByte_eq_next.1 hstore
  have hbyte : u.dataByte a = v := State.dataByte_of_written (hkeep.trans (s.setByte_written?_self a v))
  rw [loadByte_plain k (by rwa [hcfg]), hbyte]

/-- Settles O32: the slot below the moved SP is the one that was pushed to. -/
theorem pushThenPull : Obligations.PushThenPull := by
  intro ra rb s t u hpush hcfg hsp hkeep
  obtain ⟨w, hstore, hw⟩ := andThen_eq_next.1 hpush
  obtain rfl := Host.Outcome.next.inj hw
  have hwcfg : w.cfg = s.cfg := by
    obtain ⟨-, rfl⟩ := storeByte_eq_next.1 hstore
    rfl
  have hback : u.sp - 1 = s.sp := by rw [hsp, State.setSp_sp, BitVec.add_sub_cancel]
  refine ⟨(u.setReg rb (s.reg ra)).setSp (u.sp - 1), ?_, u.setReg_reg_self rb _, hback⟩
  rw [exec, execPll, hback, hcfg.trans hwcfg]
  exact loadByte_of_storeByte _ hstore hcfg hkeep

/-- Settles O33: both stores are a store to `a` and both loads a load from `a`. -/
theorem storeThenLoad : Obligations.StoreThenLoad := by
  intro a rs rd s t u hexec hcfg hkeep
  have hstore : storeByte s a (s.reg rs) = .next t := by
    obtain ⟨a8, hst, rfl⟩ | ⟨off, hstz, rfl⟩ := hexec
    · exact hst
    · exact hstz
  have hload := loadByte_of_storeByte (fun b => .next (u.setReg rd b)) hstore hcfg hkeep
  have hreg := u.setReg_reg_self rd (s.reg rs)
  constructor
  · rintro a8 rfl
    exact ⟨_, hload, hreg⟩
  · rintro off rfl
    exact ⟨_, hload, hreg⟩

end Sys2Proof.Machine
end

section
/-! PROOF. The program control instructions (43_control_transfer.md): their words, the relative target and the return address as
numbers, what a change of PC leaves alone, and the return behind a call. -/

namespace Sys2Proof.Machine

/-! ### The words of the layouts `J` and `BRC` and of `bra` (R83) -/

theorem layoutJ_eq_or (op : BitVec 5) (a : ProgAddr) : layoutJ op a = atBit op 11 ||| atBit a 0 :=
  (cast_eq_atBit rfl (op ++ a)).trans (atBit_append op a 0)

theorem layoutBRC_eq_or (op : BitVec 5) (sf : Bool) (off : Offset) (cc : Cond) :
    layoutBRC op sf off cc = atBit op 11 ||| atBit (BitVec.ofBool sf) 10 ||| atBit off 3 ||| atBit cc.code 0 :=
  (join4_eq_or rfl (op ++ BitVec.ofBool sf) 0#2 off cc.code).trans (by rw [atBit_append, atBit_zero, BitVec.or_zero])

theorem encodeBra_eq_or (off : Offset) : encode (.bra off) = 0xB000 ||| atBit off 3 :=
  (join4_eq_or rfl 0b10110#5 0#3 off 0#3).trans BitVec.or_zero

/-! ### The relative target (R161; D2, D3, D4) -/

/-- The sign-extended offset as an unsigned number is the signed offset modulo 2048. -/
theorem offset_signExtend_toNat (off : Offset) : ((off.signExtend 11).toNat : Int) = off.toInt % 2048 := by
  have hsigned : (off.signExtend 11).toInt = off.toInt := BitVec.toInt_signExtend_of_le (by decide)
  calc ((off.signExtend 11).toNat : Int) = (off.signExtend 11).toNat % 2048 := by omega
    _ = (off.signExtend 11).toInt % 2048 := by rw [BitVec.toInt_eq_toNat_bmod]; exact Int.bmod_emod.symm
    _ = off.toInt % 2048 := by rw [hsigned]

/-- PC is the address `a` of the branch plus 1 while it executes. -/
theorem State.relTarget_toNat {s : State} {a : ProgAddr} (hpc : s.pc = a + 1) (off : Offset) :
    ((s.relTarget off).toNat : Int) = ((a.toNat : Int) + s.cfg.pcRelBase.toNat + off.toInt) % 2048 := by
  have hbase : (s.cfg.pcRelBase.zeroExtend 11).toNat = s.cfg.pcRelBase.toNat :=
    BitVec.toNat_setWidth_of_le (by decide)
  have hoff := offset_signExtend_toNat off
  rw [State.relTarget, hpc, BitVec.add_sub_cancel, BitVec.toNat_add, BitVec.toNat_add, hbase]
  omega

/-! ### The jumps (R160, R162, R164, R167) -/

/-- PC replaced, SP moved or not: nothing else of the frame changes. -/
theorem Frame.of_setPc (a : ProgAddr) (p : StackPtr) (s : State) : Frame [] [] s { s with pc := a, sp := p } where
  regs _ _ := rfl
  written _ _ := rfl
  bytes _ _ := rfl
  prog _ := rfl
  ir := rfl
  pr := rfl
  window := rfl
  cfg := rfl

/-- Settles O34: the target goes to PC. -/
theorem jpaEffect : Obligations.JpaEffect := fun target s =>
  ⟨layoutJ_eq_or 0b10101 target, s.setPc target, rfl, rfl, .of_setPc target s.sp s, rfl, rfl, rfl⟩

/-- Settles O35: the relative target goes to PC. -/
theorem braEffect : Obligations.BraEffect := fun off s =>
  ⟨encodeBra_eq_or off, s.setPc (s.relTarget off), rfl, fun _ hpc => State.relTarget_toNat hpc off,
    .of_setPc _ s.sp s, rfl, rfl, rfl⟩

/-- A `brs` is a jump, to where PC already is when the condition is false. -/
theorem execBrs_eq_setPc (sf : Bool) (off : Offset) (cc : Cond) (s : State) :
    execBrs sf off cc s = .next (s.setPc (if condTrue s.scr sf cc then s.relTarget off else s.pc)) := by
  rw [execBrs]
  split <;> rfl

/-- A `brc` is a jump, to where PC already is when the condition is true. -/
theorem execBrc_eq_setPc (sf : Bool) (off : Offset) (cc : Cond) (s : State) :
    execBrc sf off cc s = .next (s.setPc (if condTrue s.scr sf cc then s.pc else s.relTarget off)) := by
  rw [execBrc]
  split <;> rfl

/-- Settles O37: both are jumps, to the target or to PC as the condition says. -/
theorem conditionalBranchEffects : Obligations.ConditionalBranchEffects := by
  intro sf off cc s
  refine ⟨⟨layoutBRC_eq_or 0b10111 sf off cc, layoutBRC_eq_or 0b11000 sf off cc⟩,
    _, _, execBrs_eq_setPc sf off cc s, execBrc_eq_setPc sf off cc s,
    fun a hpc => ⟨fun hcond => ?taken, fun hcond => ?not⟩,
    .of_setPc _ s.sp s, rfl, rfl, rfl, .of_setPc _ s.sp s, rfl, rfl, rfl⟩
  case taken | not => simp [hcond, hpc, State.relTarget_toNat hpc]

/-- Settles O36: the rows but the two of "greater" are the status bits themselves. -/
theorem conditionTable : Obligations.ConditionTable := by
  intro x
  have hgt : ∀ b : Bool, (!b && !x.z) = true ↔ b = false ∧ x.z = false := by simp
  exact ⟨fun _ => ⟨.rfl, .rfl, .rfl, .rfl, .rfl, .rfl⟩, .rfl, hgt x.c, .rfl, hgt x.s⟩

/-! ### The return address in two bytes (R59; D7) -/

theorem retLow_toNat (a : ProgAddr) : (retLow a).toNat = a.toNat % 256 :=
  BitVec.extractLsb'_toNat 0 8 a

theorem retHigh_toNat (a : ProgAddr) : (retHigh a).toNat = a.toNat / 256 := by
  have hhigh : (a.extractLsb' 8 3).toNat = a.toNat / 256 % 8 := by
    rw [BitVec.extractLsb'_toNat, Nat.shiftRight_eq_div_pow]
  rw [retHigh, toNat_append_eq_add, hhigh, BitVec.toNat_ofNat]
  omega

theorem retLow_eq_ofNat (a : ProgAddr) : retLow a = BitVec.ofNat 8 (a.toNat % 256) := by
  rw [← retLow_toNat, BitVec.ofNat_toNat, BitVec.setWidth_eq]

theorem retHigh_eq_ofNat (a : ProgAddr) : retHigh a = BitVec.ofNat 8 (a.toNat / 256) := by
  rw [← retHigh_toNat, BitVec.ofNat_toNat, BitVec.setWidth_eq]

/-- Bits 7:3 of the high byte are ignored. -/
theorem append_low3_toNat (high low : Byte) :
    (high.extractLsb' 0 3 ++ low).toNat = 256 * (high.toNat % 8) + low.toNat :=
  (toNat_append_eq_add _ low).trans (congrArg (256 * · + low.toNat) (BitVec.extractLsb'_toNat 0 3 high))

theorem retJoin_toNat (cfg : Config.Params) (first second : Byte) :
    (retJoin cfg first second).toNat =
      if cfg.retLowFirst then 256 * (second.toNat % 8) + first.toNat else 256 * (first.toNat % 8) + second.toNat := by
  rw [retJoin]
  split <;> exact append_low3_toNat _ _

/-- The two bytes of an address, in either order, give it back. -/
theorem retJoin_retFirst_retSecond (cfg : Config.Params) (a : ProgAddr) :
    retJoin cfg (retFirst cfg a) (retSecond cfg a) = a := by
  apply BitVec.eq_of_toNat_eq
  have hlow := retLow_toNat a
  have hhigh := retHigh_toNat a
  rw [retJoin_toNat, retFirst, retSecond]
  split <;> omega

/-! ### `call` (R165; D2, D4, D6) -/

/-- What a `call` whose two slots are no devices leaves. -/
def State.called (s : State) (target : ProgAddr) : State :=
  (((s.setByte (stk s.cfg s.sp) (retFirst s.cfg s.pc)).setByte (stk s.cfg (s.sp + 1)) (retSecond s.cfg s.pc)).setSp
    (s.sp + 2)).setPc target

theorem execCall_eq_next {target : ProgAddr} {s t : State} :
    execCall target s = .next t ↔
      stk s.cfg s.sp ∉ s.cfg.deviceMap ∧ stk s.cfg (s.sp + 1) ∉ s.cfg.deviceMap ∧ t = s.called target := by
  constructor
  · intro h
    obtain ⟨u, hu, h⟩ := andThen_eq_next.1 h
    obtain ⟨hfirst, rfl⟩ := storeByte_eq_next.1 hu
    obtain ⟨v, hv, h⟩ := andThen_eq_next.1 h
    obtain ⟨hsecond, rfl⟩ := storeByte_eq_next.1 hv
    exact ⟨hfirst, hsecond, (Host.Outcome.next.inj h).symm⟩
  · rintro ⟨hfirst, hsecond, rfl⟩
    exact andThen_eq_next.2 ⟨_, storeByte_plain _ hfirst, andThen_eq_next.2 ⟨_, storeByte_plain _ hsecond, rfl⟩⟩

/-- The two slots of a return address are different bytes, for every SP. -/
theorem stk_ne_stk_succ (cfg : Config.Params) (p : StackPtr) : stk cfg p ≠ stk cfg (p + 1) := by
  have hnext : p ≠ p + 1 := by simp
  exact (stk_injective cfg).ne hnext

theorem State.called_written?_first (s : State) (target : ProgAddr) :
    (s.called target).written? (stk s.cfg s.sp) = some (retFirst s.cfg s.pc) :=
  (State.setByte_written?_other _ _ (stk_ne_stk_succ s.cfg s.sp)).trans (s.setByte_written?_self _ _)

theorem State.called_written?_second (s : State) (target : ProgAddr) :
    (s.called target).written? (stk s.cfg (s.sp + 1)) = some (retSecond s.cfg s.pc) :=
  State.setByte_written?_self _ _ _

/-- The changes of two runs one after the other. -/
theorem Frame.trans {rs rs' : List Reg} {ds ds' : List DataAddr} {s t u : State} (h : Frame rs ds s t)
    (h' : Frame rs' ds' t u) : Frame (rs ++ rs') (ds ++ ds') s u where
  regs r hr :=
    (h'.regs r (mt (List.mem_append_right _) hr)).trans (h.regs r (mt (List.mem_append_left _) hr))
  written a ha :=
    (h'.written a (mt (List.mem_append_right _) ha)).trans (h.written a (mt (List.mem_append_left _) ha))
  bytes a ha :=
    (h'.bytes a (mt (List.mem_append_right _) ha)).trans (h.bytes a (mt (List.mem_append_left _) ha))
  prog a := (h'.prog a).trans (h.prog a)
  ir := h'.ir.trans h.ir
  pr := h'.pr.trans h.pr
  window := h'.window.trans h.window
  cfg := h'.cfg.trans h.cfg

theorem Frame.of_called (s : State) (target : ProgAddr) :
    Frame [] [stk s.cfg s.sp, stk s.cfg (s.sp + 1)] s (s.called target) :=
  ((Frame.of_setByte _ _ s.sp s).trans (.of_setByte _ _ s.sp _)).trans (.of_setPc target (s.sp + 2) _)

/-- Settles O38: the two bytes are the low 8 bits and the rest of PC. -/
theorem callEffect : Obligations.CallEffect := by
  intro target s hfirst hsecond
  refine ⟨layoutJ_eq_or 0b11001 target, s.called target, execCall_eq_next.2 ⟨hfirst, hsecond, rfl⟩, ?_,
    BitVec.toNat_add s.sp 2, rfl, .of_called s target, rfl, rfl⟩
  rw [← retLow_eq_ofNat, ← retHigh_eq_ofNat]
  exact ⟨s.called_written?_first target, s.called_written?_second target⟩

/-! ### `ret` (R166; D4, D6) -/

theorem execRet_plain {s : State} (hfirst : stk s.cfg (s.sp - 2) ∉ s.cfg.deviceMap)
    (hsecond : stk s.cfg (s.sp - 1) ∉ s.cfg.deviceMap) :
    execRet s = .next ((s.setPc (retJoin s.cfg (s.dataByte (stk s.cfg (s.sp - 2)))
      (s.dataByte (stk s.cfg (s.sp - 1))))).setSp (s.sp - 2)) := by
  rw [execRet, loadByte_plain _ hfirst, loadByte_plain _ hsecond]

/-- Settles O39: PC is the two bytes joined; taking 2 from SP is adding 1022. -/
theorem retEffect : Obligations.RetEffect := by
  intro s hfirst hsecond
  have hsp : (s.sp - 2).toNat = (s.sp.toNat + 1022) % 1024 := by
    rw [BitVec.toNat_sub, Nat.add_comm s.sp.toNat]
    rfl
  exact ⟨rfl, _, execRet_plain hfirst hsecond, retJoin_toNat _ _ _, hsp, .of_setPc _ _ s, rfl, rfl⟩

/-- Settles O40: SP - 2 and SP - 1 name the slots of the call, and the bytes there join to the PC of the call. -/
theorem callReturns : Obligations.CallReturns := by
  intro target s t u hcall hcfg hsp hfirst hsecond
  obtain ⟨hplain, hplain', rfl⟩ := execCall_eq_next.1 hcall
  have hucfg : u.cfg = s.cfg := hcfg
  have husp : u.sp - 2 = s.sp := by rw [hsp]; exact BitVec.add_sub_cancel s.sp 2
  have husp' : u.sp - 1 = s.sp + 1 := by rw [← husp]; ring
  have hlow := State.dataByte_of_written (hfirst.trans (s.called_written?_first target))
  have hhigh := State.dataByte_of_written (hsecond.trans (s.called_written?_second target))
  have hret := execRet_plain (s := u)
  rw [hucfg, husp, husp', hlow, hhigh, retJoin_retFirst_retSecond] at hret
  exact ⟨_, hret hplain hplain', rfl, rfl⟩

end Sys2Proof.Machine
end

section
/-! PROOF. The system instructions and the free opcodes (44_system.md): the step of a `nop` with and without a page write, SCR as
`lcr` reads it, P as `stcr` writes it, and the halt. -/

namespace Sys2Proof.Machine

/-! ### What the frame does not speak of -/

/-- The draw counter and the halt state are outside the frame. -/
theorem Frame.with_draws_halted {rs : List Reg} {ds : List DataAddr} {s t : State} (h : Frame rs ds s t) (n : Nat)
    (b : Bool) : Frame rs ds s { t with draws := n, halted := b } where
  regs := h.regs
  written := h.written
  bytes := h.bytes
  prog := h.prog
  ir := h.ir
  pr := h.pr
  window := h.window
  cfg := h.cfg

/-! ### SCR as `lcr` reads it (R30, R184; D14) -/

theorem Scr.ofBits_bits (x : Scr) : Scr.ofBits x.bits = x := by
  obtain ⟨c, v, n, s, z, p⟩ := x
  revert c v n s z p
  decide

/-- The six bits by name; the two high bits of the byte, whatever they are, lie above them. -/
theorem getLsbD_high_append_bits (high : BitVec 2) (x : Scr) :
    (high ++ x.bits).getLsbD 0 = x.c ∧ (high ++ x.bits).getLsbD 1 = x.v ∧ (high ++ x.bits).getLsbD 2 = x.n ∧
      (high ++ x.bits).getLsbD 3 = x.s ∧ (high ++ x.bits).getLsbD 4 = x.z ∧ (high ++ x.bits).getLsbD 5 = x.p := by
  have hx := Scr.ofBits_bits x
  simp only [BitVec.getLsbD_append, Nat.reduceLT, if_true]
  exact ⟨congrArg Scr.c hx, congrArg Scr.v hx, congrArg Scr.n hx, congrArg Scr.s hx, congrArg Scr.z hx, congrArg Scr.p hx⟩

/-- Settles O43: `lcr` puts `draw(2) : scr[5:0]` into the destination. -/
theorem lcrEffect : Obligations.LcrEffect := by
  intro rd s
  obtain ⟨hc, hv, hn, hs, hz, hp⟩ := getLsbD_high_append_bits (Config.freeHighBits s.draws) s.scr
  refine ⟨layoutRD_eq_or 0b11011 rd, _, rfl, ?_⟩
  rw [State.drawn_reg, State.setReg_reg_self]
  exact ⟨hc, hv, hn, hs, hz, hp, (Frame.of_setReg rd _ s.sp s).with_draws_halted _ s.halted, rfl, rfl, rfl, rfl⟩

/-! ### The instructions that do nothing (R180, R181, R182; D21) -/

/-- Settles O41: the page write, where one is pending, comes before the `nop`, which R227 admits in the window. -/
theorem nopEffect : Obligations.NopEffect := by
  refine ⟨rfl, fun _ => rfl, fun s hh hw => ?_⟩
  have hdecode : decode 0x0000 = .nop := decodeOfEncode .nop
  cases hp : s.scr.p with
  | false =>
    have hscr : { s.scr with p := false } = s.scr := by rw [← hp]
    rw [stepRunsDecodedInstruction s _ hh hp hw, hdecode, hscr, Bool.not_false, Bool.and_true]
    rfl
  | true =>
    rw [stepWritesPageFirst s _ hh hp hw (.inr (by rw [hdecode]; rfl)), hdecode, Bool.not_true, Bool.and_false]
    rfl

/-- Settles O42: both free opcodes have the meaning of `nop`. -/
theorem freeOpcodesAreNops : Obligations.FreeOpcodesAreNops :=
  ⟨rfl, rfl, fun _ => ⟨rfl, rfl⟩⟩

/-! ### `stcr` and `hlt` (R185, R186; D13, D17) -/

/-- Settles O44: `stcr` is the write of P. -/
theorem stcrEffect : Obligations.StcrEffect := fun rs _ =>
  ⟨layoutRS_eq_or 0b11100 rs, rfl⟩

/-- Settles O45: a halted machine takes no step. -/
theorem hltEffect : Obligations.HltEffect :=
  ⟨rfl, fun s => ⟨s.halt, rfl, rfl, stepStops.1 s.halt rfl,
    (Frame.of_setPc s.pc s.sp s).with_draws_halted s.draws true, rfl, rfl, rfl⟩⟩

end Sys2Proof.Machine
end

section
/-! PROOF. The hazards (70_reset_and_hazards.md): where the page write may stand around an instruction that R227 admits, what it
may come to around one that R227 forbids, and the comparison idiom (R229). -/

namespace Sys2Proof.Machine

/-! ### The page write with its page given (R36, R227; D13) -/

/-- PR and P set, as the page write sets them: all that a page write changes, early or late. -/
def State.withPage (s : State) (p : Page) (b : Bool) : State := (s.setPr p).setP b

theorem State.pageWrite_eq_withPage (s : State) : s.pageWrite = s.withPage (pageOf (s.reg .r6)) false := rfl

/-- A late page write around an instruction other than `stcr` that has not halted takes `r6` from before or after it. -/
theorem lateWrite_of_not_stcr {c : Config.WindowChoice} {i : Instr} {s t : State} (hi : writesP i = false)
    (ht : t.halted = false) :
    lateWrite c i s t = t.withPage (pageOf ((if c.newR6 then t else s).reg .r6)) false := by
  simp [lateWrite, hi, ht, State.withPage]

/-- A late page write around a `stcr` happens or not, and leaves at most the P that the `stcr` set. -/
theorem lateWrite_of_stcr (c : Config.WindowChoice) {i : Instr} {s t : State} (hi : writesP i = true)
    (ht : t.halted = false) : ∃ p b, lateWrite c i s t = t.withPage p b ∧
      (p = pageOf (t.reg .r6) ∨ p = t.pr) ∧ (b = true → t.scr.p = true) := by
  refine ⟨if t.scr.p || c.keepsWrite then pageOf (t.reg .r6) else t.pr, t.scr.p && c.keepsRequest, ?_,
    ite_eq_or_eq _ _ _, fun h => (Bool.and_eq_true_iff.1 h).1⟩
  simp only [lateWrite, ht, hi, Bool.false_eq_true, if_false, if_true]
  split <;> rfl

/-! ### An instruction that R227 admits neither reads nor writes PR and P -/

/-- `o` with PR and P set in its next state; a stop is as it was. -/
def withPageAfter (p : Page) (b : Bool) (o : Result) : Result := andThen o fun t => .next (t.withPage p b)

/-- A store, then the rest of the instruction. -/
theorem storeByte_withPage (s : State) (a : DataAddr) (v : Byte) {p : Page} {b : Bool} {k k' : State → Result}
    (hk : ∀ t, k' (t.withPage p b) = withPageAfter p b (k t)) :
    andThen (storeByte (s.withPage p b) a v) k' = withPageAfter p b (andThen (storeByte s a v) k) := by
  by_cases ha : a ∈ s.cfg.deviceMap
  · rw [storeByte_device v ha, storeByte_device (s := s.withPage p b) v ha]
    rfl
  · rw [storeByte_plain v ha, storeByte_plain (s := s.withPage p b) v ha]
    exact hk (s.setByte a v)

/-- A load, then the rest of the instruction. -/
theorem loadByte_withPage (s : State) (a : DataAddr) {p : Page} {b : Bool} {k k' : Byte → Result}
    (hk : ∀ v, k' v = withPageAfter p b (k v)) :
    loadByte (s.withPage p b) a k' = withPageAfter p b (loadByte s a k) := by
  by_cases ha : a ∈ s.cfg.deviceMap
  · rw [loadByte_device k ha, loadByte_device (s := s.withPage p b) k' ha]
    rfl
  · rw [loadByte_plain k ha, loadByte_plain (s := s.withPage p b) k' ha]
    exact hk _

theorem condTrue_with_p (x : Scr) (b sf : Bool) (cc : Cond) : condTrue { x with p := b } sf cc = condTrue x sf cc := by
  cases cc <;> rfl

/-- Setting PR and P before an instruction that R227 admits comes to the same as setting them after it, stops included. -/
theorem exec_withPage {i : Instr} (hz : windowHazard i = false) (s : State) (p : Page) (b : Bool) :
    exec i (s.withPage p b) = withPageAfter p b (exec i s) := by
  cases i with
  | st addr rs | ld rd addr | stz off rs | ldz rd off | lcr rd | stcr rs | hlt => exact nomatch hz
  | psh rs => exact storeByte_withPage _ _ _ fun _ => rfl
  | call target => exact storeByte_withPage _ _ _ fun _ => storeByte_withPage _ _ _ fun _ => rfl
  | pll rd =>
    simp only [exec, execPll]
    exact loadByte_withPage s _ fun _ => rfl
  | ret =>
    simp only [exec, execRet]
    exact loadByte_withPage s _ fun _ => loadByte_withPage s _ fun _ => rfl
  | brs sf off cc | brc sf off cc =>
    have hcond : condTrue (s.withPage p b).scr sf cc = condTrue s.scr sf cc := condTrue_with_p s.scr b sf cc
    simp only [exec, execBrs_eq_setPc, execBrc_eq_setPc, hcond]
    rfl
  | _ => rfl

/-- An instruction that R227 admits does not write `r6`. -/
theorem destReg_of_windowHazard {i : Instr} (hz : windowHazard i = false) : destReg i ≠ some .r6 := by
  cases i with
  | st addr rs | ld rd addr | stz off rs | ldz rd off | lcr rd | stcr rs | hlt => exact nomatch hz
  | _ => exact beq_eq_false_iff_ne.1 hz

/-- Settles O8: the instruction sees neither PR nor P, and the write cannot tell `r6` before it from `r6` after it. -/
theorem windowPlacementsAgree : Obligations.WindowPlacementsAgree := by
  intro i c s hz hh _
  rw [State.pageWrite_eq_withPage, exec_withPage hz]
  cases he : exec i s with
  | fault r | refused r => rfl
  | next t =>
    have eff := exec_effect he
    have ht : t.halted = false := (eff.halted (by rintro rfl; exact nomatch hz)).trans hh
    have hr6 : t.reg .r6 = s.reg .r6 := eff.reg .r6 (destReg_of_windowHazard hz)
    rw [andThen_next, lateWrite_of_not_stcr (writesP_of_windowHazard hz) ht, apply_ite (State.reg · .r6), hr6,
      ite_self]
    rfl

/-! ### An instruction that R227 forbids (U7, log 4) -/

/-- What PR, P and the window mark may be in `t` after the window instruction `i` on R227's list, run from `s` with a page write
pending. -/
def WindowPage (i : Instr) (s t : State) : Prop :=
  if i = .hlt then
    (t.pr = pageOf (s.reg .r6) ∧ t.scr.p = false) ∨ (t.pr = s.pr ∧ t.scr.p = true)
  else if writesP i = true then
    (t.pr = pageOf (s.reg .r6) ∨ t.pr = s.pr) ∧ t.window = t.scr.p ∧
      (t.scr.p = true → ∃ rs, i = .stcr rs ∧ (s.reg rs).getLsbD 5 = true)
  else
    t.scr.p = false ∧ t.window = false ∧ (t.pr = pageOf (s.reg .r6) ∨ t.pr = pageOf (t.reg .r6))

theorem exists_stcr_of_writesP {i : Instr} (hi : writesP i = true) : ∃ rs, i = .stcr rs := by
  cases i with
  | stcr rs => exact ⟨rs, rfl⟩
  | _ => exact nomatch hi

theorem windowPage_of_early {i : Instr} {s t : State} (he : exec i s.pageWrite = .next t) : WindowPage i s t := by
  have eff := exec_effect he
  unfold WindowPage
  split_ifs with hhlt hstcr
  · subst hhlt
    exact .inl ⟨eff.pr, (eff.page rfl).1⟩
  · obtain ⟨rs, rfl⟩ := exists_stcr_of_writesP hstcr
    obtain rfl := Host.Outcome.next.inj he
    exact ⟨.inl rfl, rfl, fun hbit => ⟨rs, rfl, hbit⟩⟩
  · obtain ⟨hp, hw⟩ := eff.page (Bool.eq_false_iff.2 hstcr)
    exact ⟨hp, hw, .inl eff.pr⟩

theorem windowPage_of_late {i : Instr} {s u : State} (hh : s.halted = false) (hp : s.scr.p = true)
    (he : exec i s = .next u) (c : Config.WindowChoice) : WindowPage i s (lateWrite c i s u) := by
  unfold WindowPage
  split_ifs with hhlt hstcr
  · subst hhlt
    obtain rfl := Host.Outcome.next.inj he
    exact .inr ⟨rfl, hp⟩
  · obtain ⟨rs, rfl⟩ := exists_stcr_of_writesP hstcr
    obtain rfl := Host.Outcome.next.inj he
    obtain ⟨p, b, e, hpage, hb⟩ :=
      lateWrite_of_stcr c (s := s) (t := s.setP ((s.reg rs).getLsbD 5)) hstcr hh
    rw [e]
    exact ⟨hpage, rfl, fun hbit => ⟨rs, rfl, hb hbit⟩⟩
  · have hu : u.halted = false := ((exec_effect he).halted hhlt).trans hh
    rw [lateWrite_of_not_stcr (Bool.eq_false_iff.2 hstcr) hu]
    refine ⟨rfl, rfl, ?_⟩
    cases c.newR6 with
    | false => exact .inl rfl
    | true => exact .inr rfl

/-- Settles O9: the step is one of the two placements of the page write, and a late one touches PR, P and the window mark only. -/
theorem windowHazardOutcomes : Obligations.WindowHazardOutcomes := by
  intro s w hh hp hwin hword hz late early
  have hstep : step s = runWindow (decode w) (s.fetched w) := (step_of_placed hh hword).trans (if_pos hp)
  obtain ⟨hno, -⟩ | ⟨-, -, e | ⟨c, e⟩⟩ := runWindow_cases (decode w) (s.fetched w)
  · exact absurd hno (by simp [State.fetched, hwin, hz])
  · have he : step s = exec (decode w) early := hstep.trans e
    exact ⟨.inl he, fun t ht => ⟨.inl (he.symm.trans ht), windowPage_of_early (s := late) (he.symm.trans ht)⟩⟩
  · have he : step s = andThen (exec (decode w) late) fun u => .next (lateWrite c (decode w) late u) := hstep.trans e
    refine ⟨.inr ⟨c, he⟩, fun t ht => ?_⟩
    obtain ⟨u, hu, htu⟩ := andThen_eq_next.1 (he.symm.trans ht)
    obtain rfl := Host.Outcome.next.inj htu
    exact ⟨.inr ⟨u, hu, lateWrite_eq ..⟩, windowPage_of_late (s := late) hh hp hu c⟩

/-! ### The comparison idiom (R229, R163; D9, D12) -/

/-- Settles O19: C and S are the two orders and Z is equality, two bytes being equal modulo 256 only if they are equal. -/
theorem subThenConditions : Obligations.SubThenConditions := by
  intro ra rb s
  obtain ⟨-, t, ht, eff⟩ := subEffect ra rb s
  have ha := byte_toInt_spec (s.reg ra)
  have hb := byte_toInt_spec (s.reg rb)
  have hz : t.scr.z = true ↔ (s.reg ra).toNat = (s.reg rb).toNat := by
    have hres := eff.result
    have hzero : t.reg ra = 0 ↔ (t.reg ra).toNat = 0 := BitVec.toNat_inj.symm
    exact eff.zero.trans (hzero.trans (by omega))
  have hltu : t.scr.c = true ↔ (s.reg ra).toNat < (s.reg rb).toNat := eff.carry.trans (by omega)
  have hlts : t.scr.s = true ↔ (s.reg ra).toInt < (s.reg rb).toInt := eff.sign.trans (by omega)
  obtain ⟨-, -, hgtu, -, hgts⟩ := conditionTable t.scr
  rw [← Bool.not_eq_true, ← Bool.not_eq_true, hz] at hgtu hgts
  rw [hltu] at hgtu
  rw [hlts] at hgts
  exact ⟨t, ht, fun _ => hz.trans BitVec.toNat_inj, hltu, hgtu.trans (by omega), hlts, hgts.trans (by omega)⟩

end Sys2Proof.Machine
end
